-- ==== Sys2Proof/Word.lean ====
section
/-! DEFINITION. The word types of the encoder (spec/00_scope.md R6, R8, R10). -/

namespace Sys2Proof

/-- An encoded word: "a 32-bit unsigned bit pattern", bit 0 least significant (R6, R8). -/
abbrev Word := BitVec 32

/-- One byte of text (R10, D3). -/
abbrev Byte := BitVec 8

/-- "Text is a finite sequence of bytes" (R10). -/
abbrev Text := List Byte

end Sys2Proof
end

