-- ==== Sys2Proof/Machine/Bits.lean ====
section
/-! DEFINITION. Bits and bytes: truncation (spec/00_scope.md R9) and the byte of a character (R10). -/

namespace Sys2Proof

/-- `low_N(v)`: "the unique value u in 0..2^N-1 with u ≡ v (mod 2^N)" (R9). -/
def low (n : Nat) (v : Int) : BitVec n := BitVec.ofInt n v

/-- A field's value at bits `at_` and up of a word, the other bits zero (R8). -/
def place {n : Nat} (v : BitVec n) (at_ : Nat) : Word := v.setWidth 32 <<< at_

/-- "a quoted `'$'` is the byte of that ASCII character" (R10). -/
def byteOf (c : Char) : Byte := BitVec.ofNat 8 c.toNat

/-- The bytes of ASCII characters (R10). -/
def ascii (cs : List Char) : Text := cs.map byteOf

/-- LF, 0x0A: it ends a line (spec/30_encoding.md R64, R65). -/
def lineFeed : Byte := 0x0A#8

/-- 0x20: the byte at which a line splits (R64). -/
def space : Byte := 0x20#8

end Sys2Proof
end

