-- ==== Sys2Proof/Config.lean ====
section
/-! DEFINITION. What is fixed when the hardware is built (spec/00_scope.md R7, spec/10_state.md R16) and
the values the spec leaves free. A constant without a body is OPEN: no proof can see its value, so a
claim about it holds for every value. -/

namespace Sys2Proof

/-- The function codes for which the spec gives no value (R7, R42, D11): "OPEN: no default; each is an
integer in 0..63". `mfc0`'s entry is "unobservable: never packed" (R42), so it is open as well. -/
structure OpenFuncts where
  rbit : BitVec 6
  rev  : BitVec 6
  add8 : BitVec 6
  sadd : BitVec 6
  ssub : BitVec 6
  mfc0 : BitVec 6
  deriving DecidableEq, Repr, Inhabited

/-- The named parameters of the two tables (R7): the opcodes and function codes the source covers with
"etc.", and the OPEN ones. -/
structure Params where
  opcAddiu   : BitVec 6
  opcAndi    : BitVec 6
  opcOri     : BitVec 6
  opcBne     : BitVec 6
  opcSlti    : BitVec 6
  opcSltiu   : BitVec 6
  functAddu  : BitVec 6
  functSubu  : BitVec 6
  functMultu : BitVec 6
  functDiv   : BitVec 6
  functDivu  : BitVec 6
  functMfhi  : BitVec 6
  functMflo  : BitVec 6
  functAnd   : BitVec 6
  functOr    : BitVec 6
  functSlt   : BitVec 6
  functSltu  : BitVec 6
  openFn     : OpenFuncts
  deriving DecidableEq, Repr

/-- The parameters at the spec's defaults (R7, D10), over given OPEN function codes.
PRESUMED: the defaults are the spec's own, from general knowledge (log 5). -/
def Params.withOpen (f : OpenFuncts) : Params where
  opcAddiu   := 9
  opcAndi    := 12
  opcOri     := 13
  opcBne     := 5
  opcSlti    := 10
  opcSltiu   := 11
  functAddu  := 33
  functSubu  := 35
  functMultu := 25
  functDiv   := 26
  functDivu  := 27
  functMfhi  := 16
  functMflo  := 18
  functAnd   := 36
  functOr    := 37
  functSlt   := 42
  functSltu  := 43
  openFn     := f

/-- The two fatal I/O errors of the host (spec/60_exceptions.md R111). -/
inductive FatalIo where
  /-- the input file cannot be opened -/
  | inputNotOpened
  /-- the input opens but the output file cannot be opened -/
  | outputNotOpened
  deriving DecidableEq, Repr

namespace Config

/-- The OPEN function codes of this hardware (D11): free values (log 6). -/
opaque openFuncts : OpenFuncts

/-- The table parameters of this hardware (R7). -/
def params : Params := Params.withOpen openFuncts

/-- `LIT_BITS`, "width of the signed integer a numeric literal must fit" (R7, D5; log 8). -/
def litBits : Nat := 32

/-- An unconstrained byte string, of which `mfc0Diag` is the part without line feeds (log 7). -/
opaque mfc0DiagRaw : Text

/-- `MFC0_DIAG`: "a fixed byte string, containing no line terminator" (R7, D13). Every string without a
line feed is such a part of itself, so nothing else about it is known. -/
def mfc0Diag : Text := mfc0DiagRaw.filter fun c => decide (c ≠ 0x0A#8)

/-- `any_26`, the fresh draw of bits 25:0 of a word for malformed text (spec/60_exceptions.md R104,
D9): a free value, applied to the counter of draws (log 4). -/
opaque any26 : Nat → BitVec 26

/-- The `word` port when the response is the diagnostic: "an unconstrained value that no rule reads"
(spec/10_state.md R19, U2; log 22). -/
opaque freeWord : Nat → Word

/-- The `diag_text` port when the response is a word: "no meaning when `diag_valid` = 0" (R19; log 22). -/
opaque freeDiagText : Nat → Text

/-- One less than the exit status of a failed run: the source gives "nonzero status" and no value
(R111, U14; log 19). -/
opaque failStatusPred : FatalIo → Nat

/-- The exit status of a run that fails: some number above 0 (R111). -/
def failStatus (e : FatalIo) : Nat := failStatusPred e + 1

end Config

end Sys2Proof
end

