-- ==== Sys2Proof/Syntax.lean ====
section
/-! DEFINITION. The vocabulary, the operand shapes and the instructions of the encoder
(spec/30_encoding.md R31 to R58). An instruction is a mnemonic of spec/opcode_table.json with its parsed
operands; executing it is answering the request that names it. -/

namespace Sys2Proof

/-- The three word layouts (R31). -/
inductive Format where
  | J
  | I
  | R
  deriving DecidableEq, Repr

/-- The nine operand shapes, and UNIMPL for `mfc0` (R40, spec/10_state.md R20). -/
inductive Shape where
  | jTarget
  | iMem
  | iLui
  | iArith
  | rRs
  | rRd
  | rRsRt
  | rShift
  | rThree
  | unimpl
  deriving DecidableEq, Repr

/-- The 36 mnemonics (R40), in the order of spec/opcode_table.json. -/
inductive Mnemonic where
  | j
  | jal
  | addi
  | addiu
  | andi
  | ori
  | lw
  | sw
  | lui
  | beq
  | bne
  | slti
  | sltiu
  | add
  | sub
  | addu
  | subu
  | mult
  | multu
  | div
  | divu
  | mfhi
  | mflo
  | and
  | or
  | sll
  | srl
  | slt
  | sltu
  | jr
  | mfc0
  | rbit
  | rev
  | add8
  | sadd
  | ssub
  deriving DecidableEq, Repr

/-- One request: the two values its input ports present (spec/10_state.md R18). -/
structure Request where
  /-- `mnem`, "compared byte for byte with the vocabulary" -/
  mnem : Text
  /-- `opnd`, "the "remainder-of-line" after the mnemonic" -/
  opnd : Text
  deriving DecidableEq, Repr

/-- What a parser gives: `ok`, or `malformed` (spec/00_scope.md R10, R48). -/
inductive Parsed (α : Type) where
  | ok (value : α)
  | malformed
  deriving DecidableEq, Repr

/-- Operands of shape J_TARGET, in text order: `target` (R49). -/
structure JTarget where
  target : Int
  deriving DecidableEq, Repr

/-- Operands of shape I_MEM, in text order: `$rt, imm($rs)` (R50). -/
structure IMem where
  rt : Int
  imm : Int
  rs : Int
  deriving DecidableEq, Repr

/-- Operands of shape I_LUI, in text order: `$rt, imm` (R51). -/
structure ILui where
  rt : Int
  imm : Int
  deriving DecidableEq, Repr

/-- Operands of shape I_ARITH, in text order: `$rt, $rs, imm` (R52). -/
structure IArith where
  rt : Int
  rs : Int
  imm : Int
  deriving DecidableEq, Repr

/-- Operands of shape R_RS, in text order: `$rs` (R53). -/
structure RRs where
  rs : Int
  deriving DecidableEq, Repr

/-- Operands of shape R_RD, in text order: `$rd` (R54). -/
structure RRd where
  rd : Int
  deriving DecidableEq, Repr

/-- Operands of shape R_RSRT, in text order: `$rs, $rt` (R55). -/
structure RRsRt where
  rs : Int
  rt : Int
  deriving DecidableEq, Repr

/-- Operands of shape R_SHIFT, in text order: `$rd, $rt, shamt` (R56). -/
structure RShift where
  rd : Int
  rt : Int
  shamt : Int
  deriving DecidableEq, Repr

/-- Operands of shape R_THREE, in text order: `$rd, $rs, $rt` (R57). -/
structure RThree where
  rd : Int
  rs : Int
  rt : Int
  deriving DecidableEq, Repr

/-- The J-format field the multiplexer drives, before masking (R34, R58). -/
structure JFields where
  target : Int
  deriving DecidableEq, Repr

/-- The I-format fields the multiplexer drives, before masking (R33, R58). -/
structure IFields where
  rs  : Int
  rt  : Int
  imm : Int
  deriving DecidableEq, Repr

/-- The R-format fields the multiplexer drives, before masking (R32, R58). -/
structure RFields where
  rs    : Int
  rt    : Int
  rd    : Int
  shamt : Int
  deriving DecidableEq, Repr

/-- The instructions: one constructor for each row of spec/opcode_table.json. The operands are the
literals of the operand text, before any truncation (spec/00_scope.md R9), or `malformed` (R48). The
operand text of `mfc0` is not read (spec/42_r_format.md R96). -/
inductive Instr where
  /-- R66 -/
  | j (ops : Parsed JTarget)
  /-- R67 -/
  | jal (ops : Parsed JTarget)
  /-- R68 -/
  | addi (ops : Parsed IArith)
  /-- R69 -/
  | addiu (ops : Parsed IArith)
  /-- R70 -/
  | andi (ops : Parsed IArith)
  /-- R71 -/
  | ori (ops : Parsed IArith)
  /-- R72 -/
  | lw (ops : Parsed IMem)
  /-- R73 -/
  | sw (ops : Parsed IMem)
  /-- R74 -/
  | lui (ops : Parsed ILui)
  /-- R75 -/
  | beq (ops : Parsed IArith)
  /-- R76 -/
  | bne (ops : Parsed IArith)
  /-- R77 -/
  | slti (ops : Parsed IArith)
  /-- R78 -/
  | sltiu (ops : Parsed IArith)
  /-- R79 -/
  | add (ops : Parsed RThree)
  /-- R80 -/
  | sub (ops : Parsed RThree)
  /-- R81 -/
  | addu (ops : Parsed RThree)
  /-- R82 -/
  | subu (ops : Parsed RThree)
  /-- R83 -/
  | mult (ops : Parsed RRsRt)
  /-- R84 -/
  | multu (ops : Parsed RRsRt)
  /-- R85 -/
  | div (ops : Parsed RRsRt)
  /-- R86 -/
  | divu (ops : Parsed RRsRt)
  /-- R87 -/
  | mfhi (ops : Parsed RRd)
  /-- R88 -/
  | mflo (ops : Parsed RRd)
  /-- R89 -/
  | and (ops : Parsed RThree)
  /-- R90 -/
  | or (ops : Parsed RThree)
  /-- R91 -/
  | sll (ops : Parsed RShift)
  /-- R92 -/
  | srl (ops : Parsed RShift)
  /-- R93 -/
  | slt (ops : Parsed RThree)
  /-- R94 -/
  | sltu (ops : Parsed RThree)
  /-- R95 -/
  | jr (ops : Parsed RRs)
  /-- R96 -/
  | mfc0
  /-- R97 -/
  | rbit (ops : Parsed RRsRt)
  /-- R98 -/
  | rev (ops : Parsed RRsRt)
  /-- R99 -/
  | add8 (ops : Parsed RThree)
  /-- R100 -/
  | sadd (ops : Parsed RThree)
  /-- R101 -/
  | ssub (ops : Parsed RThree)
  deriving DecidableEq, Repr

/-- The mnemonic of an instruction. -/
def Instr.mnemonic : Instr → Mnemonic
  | .j _ => .j
  | .jal _ => .jal
  | .addi _ => .addi
  | .addiu _ => .addiu
  | .andi _ => .andi
  | .ori _ => .ori
  | .lw _ => .lw
  | .sw _ => .sw
  | .lui _ => .lui
  | .beq _ => .beq
  | .bne _ => .bne
  | .slti _ => .slti
  | .sltiu _ => .sltiu
  | .add _ => .add
  | .sub _ => .sub
  | .addu _ => .addu
  | .subu _ => .subu
  | .mult _ => .mult
  | .multu _ => .multu
  | .div _ => .div
  | .divu _ => .divu
  | .mfhi _ => .mfhi
  | .mflo _ => .mflo
  | .and _ => .and
  | .or _ => .or
  | .sll _ => .sll
  | .srl _ => .srl
  | .slt _ => .slt
  | .sltu _ => .sltu
  | .jr _ => .jr
  | .mfc0 => .mfc0
  | .rbit _ => .rbit
  | .rev _ => .rev
  | .add8 _ => .add8
  | .sadd _ => .sadd
  | .ssub _ => .ssub

/-- A result function under `ok`. -/
def Parsed.map {α β : Type} (f : α → β) : Parsed α → Parsed β
  | .ok a => .ok (f a)
  | .malformed => .malformed

/-- "a `malformed` from any `read_*` makes `parse_S` return `malformed` at once" (R57). -/
def Parsed.bind {α β : Type} (p : Parsed α) (f : α → Parsed β) : Parsed β :=
  match p with
  | .ok a => f a
  | .malformed => .malformed

end Sys2Proof
end

