-- ==== Sys2Proof/Machine/Rom.lean ====
section
/-! DEFINITION. The vocabulary's byte strings and the two lookup tables: the block's only storage
(spec/10_state.md R12, spec/20_memory.md R22, spec/30_encoding.md R40 to R43). -/

namespace Sys2Proof

/-- The byte string of a mnemonic (R40): the address of its table entries (R22). -/
def Mnemonic.text : Mnemonic → Text
  | .j => ascii ['j']
  | .jal => ascii ['j', 'a', 'l']
  | .addi => ascii ['a', 'd', 'd', 'i']
  | .addiu => ascii ['a', 'd', 'd', 'i', 'u']
  | .andi => ascii ['a', 'n', 'd', 'i']
  | .ori => ascii ['o', 'r', 'i']
  | .lw => ascii ['l', 'w']
  | .sw => ascii ['s', 'w']
  | .lui => ascii ['l', 'u', 'i']
  | .beq => ascii ['b', 'e', 'q']
  | .bne => ascii ['b', 'n', 'e']
  | .slti => ascii ['s', 'l', 't', 'i']
  | .sltiu => ascii ['s', 'l', 't', 'i', 'u']
  | .add => ascii ['a', 'd', 'd']
  | .sub => ascii ['s', 'u', 'b']
  | .addu => ascii ['a', 'd', 'd', 'u']
  | .subu => ascii ['s', 'u', 'b', 'u']
  | .mult => ascii ['m', 'u', 'l', 't']
  | .multu => ascii ['m', 'u', 'l', 't', 'u']
  | .div => ascii ['d', 'i', 'v']
  | .divu => ascii ['d', 'i', 'v', 'u']
  | .mfhi => ascii ['m', 'f', 'h', 'i']
  | .mflo => ascii ['m', 'f', 'l', 'o']
  | .and => ascii ['a', 'n', 'd']
  | .or => ascii ['o', 'r']
  | .sll => ascii ['s', 'l', 'l']
  | .srl => ascii ['s', 'r', 'l']
  | .slt => ascii ['s', 'l', 't']
  | .sltu => ascii ['s', 'l', 't', 'u']
  | .jr => ascii ['j', 'r']
  | .mfc0 => ascii ['m', 'f', 'c', '0']
  | .rbit => ascii ['r', 'b', 'i', 't']
  | .rev => ascii ['r', 'e', 'v']
  | .add8 => ascii ['a', 'd', 'd', '8']
  | .sadd => ascii ['s', 'a', 'd', 'd']
  | .ssub => ascii ['s', 's', 'u', 'b']

/-- The J-format mnemonics (R39). -/
def Mnemonic.allJ : List Mnemonic := [.j, .jal]

/-- The I-format mnemonics (R39). -/
def Mnemonic.allI : List Mnemonic :=
  [.addi, .addiu, .andi, .ori, .lw, .sw, .lui, .beq, .bne, .slti, .sltiu]

/-- The R-format mnemonics (R40). -/
def Mnemonic.allR : List Mnemonic :=
  [.add, .sub, .addu, .subu, .mult, .multu, .div, .divu, .mfhi, .mflo, .and, .or, .sll, .srl]
    ++ [.slt, .sltu, .jr, .mfc0, .rbit, .rev, .add8, .sadd, .ssub]

/-- The vocabulary (R40). -/
def Mnemonic.all : List Mnemonic := Mnemonic.allJ ++ Mnemonic.allI ++ Mnemonic.allR

namespace Machine

/-- A table: an entry is a byte string and one integer (R22). -/
abbrev Rom := List (Text × Nat)

/-- A lookup: total, with 0 for a missing entry (R22, R43). -/
def Rom.read (m : Text) : Rom → Nat
  | [] => 0
  | (k, v) :: rest => if k = m then v else Rom.read m rest

/-- The opcode of a mnemonic (R41), over the table parameters (R7). -/
def opcodeOf (p : Params) : Mnemonic → Nat
  | .j => 2
  | .jal => 3
  | .addi => 8
  | .addiu => p.opcAddiu.toNat
  | .andi => p.opcAndi.toNat
  | .ori => p.opcOri.toNat
  | .lw => 35
  | .sw => 43
  | .lui => 15
  | .beq => 4
  | .bne => p.opcBne.toNat
  | .slti => p.opcSlti.toNat
  | .sltiu => p.opcSltiu.toNat
  | .add => 0
  | .sub => 0
  | .addu => 0
  | .subu => 0
  | .mult => 0
  | .multu => 0
  | .div => 0
  | .divu => 0
  | .mfhi => 0
  | .mflo => 0
  | .and => 0
  | .or => 0
  | .sll => 0
  | .srl => 0
  | .slt => 0
  | .sltu => 0
  | .jr => 0
  | .mfc0 => 0
  | .rbit => 0
  | .rev => 0
  | .add8 => 0
  | .sadd => 0
  | .ssub => 0

/-- The function code of an R-format mnemonic (R42), over the table parameters (R7). The J-format and
I-format mnemonics have no entry: `fnRomContents` does not list them. -/
def functOf (p : Params) : Mnemonic → Nat
  | .j => 0
  | .jal => 0
  | .addi => 0
  | .addiu => 0
  | .andi => 0
  | .ori => 0
  | .lw => 0
  | .sw => 0
  | .lui => 0
  | .beq => 0
  | .bne => 0
  | .slti => 0
  | .sltiu => 0
  | .add => 32
  | .sub => 34
  | .addu => p.functAddu.toNat
  | .subu => p.functSubu.toNat
  | .mult => 24
  | .multu => p.functMultu.toNat
  | .div => p.functDiv.toNat
  | .divu => p.functDivu.toNat
  | .mfhi => p.functMfhi.toNat
  | .mflo => p.functMflo.toNat
  | .and => p.functAnd.toNat
  | .or => p.functOr.toNat
  | .sll => 0
  | .srl => 2
  | .slt => p.functSlt.toNat
  | .sltu => p.functSltu.toNat
  | .jr => 8
  | .mfc0 => p.openFn.mfc0.toNat
  | .rbit => p.openFn.rbit.toNat
  | .rev => p.openFn.rev.toNat
  | .add8 => p.openFn.add8.toNat
  | .sadd => p.openFn.sadd.toNat
  | .ssub => p.openFn.ssub.toNat

/-- The contents of the opcode ROM: "every mnemonic has an entry" (R41). -/
def opcRomContents (p : Params) : Rom := Mnemonic.all.map fun m => (m.text, opcodeOf p m)

/-- The contents of the function-code ROM: "only register-format mnemonics have entries" (R42). -/
def fnRomContents (p : Params) : Rom := Mnemonic.allR.map fun m => (m.text, functOf p m)

end Machine

end Sys2Proof
end

