-- ==== Sys2Proof/Machine/Classifier.lean ====
section
/-! DEFINITION. The classifier: mnemonic to format and operand shape (spec/30_encoding.md R39, R40). -/

namespace Sys2Proof.Machine

/-- The vocabulary entry with exactly these bytes: "Matching is exact and case-sensitive" (R39, D3). -/
def lookupMnemonic (m : Text) : Option Mnemonic :=
  Mnemonic.all.find? fun k => decide (k.text = m)

/-- The format of a vocabulary entry (R39). -/
def formatOf : Mnemonic → Format
  | .j => .J
  | .jal => .J
  | .addi => .I
  | .addiu => .I
  | .andi => .I
  | .ori => .I
  | .lw => .I
  | .sw => .I
  | .lui => .I
  | .beq => .I
  | .bne => .I
  | .slti => .I
  | .sltiu => .I
  | .add => .R
  | .sub => .R
  | .addu => .R
  | .subu => .R
  | .mult => .R
  | .multu => .R
  | .div => .R
  | .divu => .R
  | .mfhi => .R
  | .mflo => .R
  | .and => .R
  | .or => .R
  | .sll => .R
  | .srl => .R
  | .slt => .R
  | .sltu => .R
  | .jr => .R
  | .mfc0 => .R
  | .rbit => .R
  | .rev => .R
  | .add8 => .R
  | .sadd => .R
  | .ssub => .R

/-- The operand shape of a vocabulary entry (R40). -/
def shapeOf : Mnemonic → Shape
  | .j => .jTarget
  | .jal => .jTarget
  | .addi => .iArith
  | .addiu => .iArith
  | .andi => .iArith
  | .ori => .iArith
  | .lw => .iMem
  | .sw => .iMem
  | .lui => .iLui
  | .beq => .iArith
  | .bne => .iArith
  | .slti => .iArith
  | .sltiu => .iArith
  | .add => .rThree
  | .sub => .rThree
  | .addu => .rThree
  | .subu => .rThree
  | .mult => .rRsRt
  | .multu => .rRsRt
  | .div => .rRsRt
  | .divu => .rRsRt
  | .mfhi => .rRd
  | .mflo => .rRd
  | .and => .rThree
  | .or => .rThree
  | .sll => .rShift
  | .srl => .rShift
  | .slt => .rThree
  | .sltu => .rThree
  | .jr => .rRs
  | .mfc0 => .unimpl
  | .rbit => .rRsRt
  | .rev => .rRsRt
  | .add8 => .rThree
  | .sadd => .rThree
  | .ssub => .rThree

/-- `fmt(m)`: R is the default, for "everything else" (R39). -/
def classifyFormat (m : Text) : Format :=
  match lookupMnemonic m with
  | some k => formatOf k
  | none => .R

/-- `class(m)`: any other byte string has shape R_THREE (R40). -/
def classifyShape (m : Text) : Shape :=
  match lookupMnemonic m with
  | some k => shapeOf k
  | none => .rThree

end Sys2Proof.Machine
end

