-- ==== Sys2Proof/Machine/Lines.lean ====
section
/-! DEFINITION. The host's text: lines, their split into a request, and the hexadecimal rendering of a
word (spec/30_encoding.md R64, R65). DESIGN CHOICE: the points the source leaves open are the spec's own
decisions D14 to D16 (log 23). -/

namespace Sys2Proof.Machine

/-- The next line of the unread input and what follows it: "the bytes up to, but not including, its
terminating LF (0x0A); a final line with no LF is still a line" (R64). -/
def nextLine : Text → Option (Text × Text)
  | [] => none
  | c :: t =>
    if c = lineFeed then some ([], t)
    else
      match nextLine t with
      | none => some ([c], [])
      | some (line, rest) => some (c :: line, rest)

/-- The split "at the first space into mnemonic and remainder-of-line"; a line with no space is all
mnemonic (R64). -/
def splitLine : Text → Request
  | [] => { mnem := [], opnd := [] }
  | c :: t =>
    if c = space then { mnem := [], opnd := t }
    else { mnem := c :: (splitLine t).mnem, opnd := (splitLine t).opnd }

/-- A hexadecimal digit, lowercase (R65). -/
def hexDigit (d : BitVec 4) : Byte :=
  if d.toNat < 10 then BitVec.ofNat 8 (48 + d.toNat) else BitVec.ofNat 8 (87 + d.toNat)

/-- "exactly 8 hexadecimal digits of `w`, most significant digit first" (R65). -/
def hexWord (w : Word) : Text := [28, 24, 20, 16, 12, 8, 4, 0].map fun k => hexDigit (w.extractLsb' k 4)

end Sys2Proof.Machine
end

