-- ==== Sys2Proof/Machine/Operands.lean ====
section
/-! DEFINITION. The operand parser, one parser per shape, and the field multiplexer
(spec/30_encoding.md R44 to R58). A position in the text is the text still unread, so that `read_int`,
`read_reg` and `read_lit` give the rest of the text where the spec's pseudocode gives an index.
DESIGN CHOICE: the lexical points are the spec's own decisions D3 to D8 (log 9). -/

namespace Sys2Proof.Machine

/-- The whitespace bytes: 0x20 and 0x09 to 0x0D (R44, D4). -/
def isSpace (c : Byte) : Bool := c == 0x20#8 || (9 ≤ c.toNat && c.toNat ≤ 13)

/-- A decimal digit `0`..`9` (R45). -/
def isDigit (c : Byte) : Bool := 48 ≤ c.toNat && c.toNat ≤ 57

/-- `skip_ws` (R44). -/
def skipSpace : Text → Text
  | [] => []
  | c :: t => if isSpace c then skipSpace t else c :: t

/-- The leading digits of a text, and the rest: a literal "ends at the first byte that is not a digit"
(R45). -/
def spanDigits : Text → Text × Text
  | [] => ([], [])
  | c :: t => if isDigit c then (c :: (spanDigits t).1, (spanDigits t).2) else ([], c :: t)

/-- The base-10 value of digits, after `acc` (R45). -/
def decimalFrom (acc : Nat) : Text → Nat
  | [] => acc
  | c :: t => decimalFrom (10 * acc + (c.toNat - 48)) t

/-- "decimal value of t[j .. k-1]" (R45). -/
def decimalValue (digits : Text) : Nat := decimalFrom 0 digits

/-- The optional sign: whether it is `-`, and the rest (R45). -/
def readSign : Text → Bool × Text
  | [] => (false, [])
  | c :: t => if c = byteOf '-' then (true, t) else if c = byteOf '+' then (false, t) else (false, c :: t)

/-- The range of a literal: `-2^(LIT_BITS-1)` .. `2^(LIT_BITS-1) - 1` (R45, D5). -/
def inLitRange (v : Int) : Bool :=
  decide (-((2 ^ (Config.litBits - 1) : Nat) : Int) ≤ v) && decide (v < ((2 ^ (Config.litBits - 1) : Nat) : Int))

/-- The value of a literal from its sign and its digits. -/
def signedValue (neg : Bool) (digits : Text) : Int :=
  if neg then -(decimalValue digits : Int) else decimalValue digits

/-- `read_int` (R45). -/
def readInt (t : Text) : Parsed (Int × Text) :=
  let signed := readSign (skipSpace t)
  let digits := spanDigits signed.2
  if digits.1 = [] then .malformed
  else if inLitRange (signedValue signed.1 digits.1) then .ok (signedValue signed.1 digits.1, digits.2)
  else .malformed

/-- The delimiter test after whitespace is skipped (R47). -/
def expect (c : Byte) : Text → Parsed Text
  | [] => .malformed
  | d :: t => if d = c then .ok t else .malformed

/-- `read_lit` (R47, D7). -/
def readLit (t : Text) (c : Char) : Parsed Text := expect (byteOf c) (skipSpace t)

/-- `read_reg`: the sigil, then an integer literal (R46). -/
def readReg (t : Text) : Parsed (Int × Text) := (readLit t '$').bind readInt

/-- A register operand and the comma after it. -/
def readRegComma (t : Text) : Parsed (Int × Text) :=
  (readReg t).bind fun r => (readLit r.2 ',').map fun u => (r.1, u)

/-- Shape J_TARGET (R49). Bytes after the last token are ignored, here and below (R48, D8). -/
def parseJTarget (t : Text) : Parsed JTarget := (readInt t).map fun v => { target := v.1 }

/-- Shape I_MEM (R50); the closing parenthesis is required (D7). -/
def parseIMem (t : Text) : Parsed IMem :=
  (readRegComma t).bind fun rt =>
  (readInt rt.2).bind fun imm =>
  (readLit imm.2 '(').bind fun u =>
  (readReg u).bind fun rs =>
  (readLit rs.2 ')').map fun _ => { rt := rt.1, imm := imm.1, rs := rs.1 }

/-- Shape I_LUI (R51). -/
def parseILui (t : Text) : Parsed ILui :=
  (readRegComma t).bind fun rt => (readInt rt.2).map fun imm => { rt := rt.1, imm := imm.1 }

/-- Shape I_ARITH: "The first register goes to rt and the second to rs" (R52). -/
def parseIArith (t : Text) : Parsed IArith :=
  (readRegComma t).bind fun rt =>
  (readRegComma rt.2).bind fun rs =>
  (readInt rs.2).map fun imm => { rt := rt.1, rs := rs.1, imm := imm.1 }

/-- Shape R_RS (R53). -/
def parseRRs (t : Text) : Parsed RRs := (readReg t).map fun rs => { rs := rs.1 }

/-- Shape R_RD (R54). -/
def parseRRd (t : Text) : Parsed RRd := (readReg t).map fun rd => { rd := rd.1 }

/-- Shape R_RSRT (R55). -/
def parseRRsRt (t : Text) : Parsed RRsRt :=
  (readRegComma t).bind fun rs => (readReg rs.2).map fun rt => { rs := rs.1, rt := rt.1 }

/-- Shape R_SHIFT: the shift amount is a bare literal (R56). -/
def parseRShift (t : Text) : Parsed RShift :=
  (readRegComma t).bind fun rd =>
  (readRegComma rd.2).bind fun rt =>
  (readInt rt.2).map fun sh => { rd := rd.1, rt := rt.1, shamt := sh.1 }

/-- Shape R_THREE: "destination first, then source, then second source" (R57). -/
def parseRThree (t : Text) : Parsed RThree :=
  (readRegComma t).bind fun rd =>
  (readRegComma rd.2).bind fun rs =>
  (readReg rs.2).map fun rt => { rd := rd.1, rs := rs.1, rt := rt.1 }

/-- The multiplexer's row J_TARGET (R58). -/
def muxJTarget (o : JTarget) : JFields := { target := o.target }

/-- The multiplexer's row I_MEM (R58). -/
def muxIMem (o : IMem) : IFields := { rs := o.rs, rt := o.rt, imm := o.imm }

/-- The multiplexer's row I_LUI: "rs is implicitly 0" (R51, R58). -/
def muxILui (o : ILui) : IFields := { rs := 0, rt := o.rt, imm := o.imm }

/-- The multiplexer's row I_ARITH (R58). -/
def muxIArith (o : IArith) : IFields := { rs := o.rs, rt := o.rt, imm := o.imm }

/-- The multiplexer's row R_RS: "rd=rt=shamt=0" (R53, R58). -/
def muxRRs (o : RRs) : RFields := { rs := o.rs, rt := 0, rd := 0, shamt := 0 }

/-- The multiplexer's row R_RD: "rs=rt=shamt=0" (R54, R58). -/
def muxRRd (o : RRd) : RFields := { rs := 0, rt := 0, rd := o.rd, shamt := 0 }

/-- The multiplexer's row R_RSRT: "rd=shamt=0" (R55, R58). -/
def muxRRsRt (o : RRsRt) : RFields := { rs := o.rs, rt := o.rt, rd := 0, shamt := 0 }

/-- The multiplexer's row R_SHIFT: "rs=0" (R56, R58). -/
def muxRShift (o : RShift) : RFields := { rs := 0, rt := o.rt, rd := o.rd, shamt := o.shamt }

/-- The multiplexer's row R_THREE. DESIGN CHOICE: shamt is 0 by the spec's decision D12 (log 10). -/
def muxRThree (o : RThree) : RFields := { rs := o.rs, rt := o.rt, rd := o.rd, shamt := 0 }

end Sys2Proof.Machine
end

