-- ==== Sys2Proof/WellFormed.lean ====
section
/-! DEFINITION. Well-formed instructions: the operand text was well-formed for the shape
(spec/30_encoding.md R48), and every literal lies in the range a literal has (R45). -/

namespace Sys2Proof

/-- The literals of an operand text of this shape, in text order. -/
def JTarget.literals (o : JTarget) : List Int := [o.target]

/-- The literals of an operand text of this shape, in text order. -/
def IMem.literals (o : IMem) : List Int := [o.rt, o.imm, o.rs]

/-- The literals of an operand text of this shape, in text order. -/
def ILui.literals (o : ILui) : List Int := [o.rt, o.imm]

/-- The literals of an operand text of this shape, in text order. -/
def IArith.literals (o : IArith) : List Int := [o.rt, o.rs, o.imm]

/-- The literals of an operand text of this shape, in text order. -/
def RRs.literals (o : RRs) : List Int := [o.rs]

/-- The literals of an operand text of this shape, in text order. -/
def RRd.literals (o : RRd) : List Int := [o.rd]

/-- The literals of an operand text of this shape, in text order. -/
def RRsRt.literals (o : RRsRt) : List Int := [o.rs, o.rt]

/-- The literals of an operand text of this shape, in text order. -/
def RShift.literals (o : RShift) : List Int := [o.rd, o.rt, o.shamt]

/-- The literals of an operand text of this shape, in text order. -/
def RThree.literals (o : RThree) : List Int := [o.rd, o.rs, o.rt]

/-- The literals of a parsed operand text; none if it is malformed. -/
def Parsed.literals {α : Type} (f : α → List Int) : Parsed α → List Int
  | .ok a => f a
  | .malformed => []

/-- The operand literals of an instruction, in text order; none where no operand was read. -/
def Instr.literals : Instr → List Int
  | .j ops => ops.literals JTarget.literals
  | .jal ops => ops.literals JTarget.literals
  | .addi ops => ops.literals IArith.literals
  | .addiu ops => ops.literals IArith.literals
  | .andi ops => ops.literals IArith.literals
  | .ori ops => ops.literals IArith.literals
  | .lw ops => ops.literals IMem.literals
  | .sw ops => ops.literals IMem.literals
  | .lui ops => ops.literals ILui.literals
  | .beq ops => ops.literals IArith.literals
  | .bne ops => ops.literals IArith.literals
  | .slti ops => ops.literals IArith.literals
  | .sltiu ops => ops.literals IArith.literals
  | .add ops => ops.literals RThree.literals
  | .sub ops => ops.literals RThree.literals
  | .addu ops => ops.literals RThree.literals
  | .subu ops => ops.literals RThree.literals
  | .mult ops => ops.literals RRsRt.literals
  | .multu ops => ops.literals RRsRt.literals
  | .div ops => ops.literals RRsRt.literals
  | .divu ops => ops.literals RRsRt.literals
  | .mfhi ops => ops.literals RRd.literals
  | .mflo ops => ops.literals RRd.literals
  | .and ops => ops.literals RThree.literals
  | .or ops => ops.literals RThree.literals
  | .sll ops => ops.literals RShift.literals
  | .srl ops => ops.literals RShift.literals
  | .slt ops => ops.literals RThree.literals
  | .sltu ops => ops.literals RThree.literals
  | .jr ops => ops.literals RRs.literals
  | .mfc0 => []
  | .rbit ops => ops.literals RRsRt.literals
  | .rev ops => ops.literals RRsRt.literals
  | .add8 ops => ops.literals RThree.literals
  | .sadd ops => ops.literals RThree.literals
  | .ssub ops => ops.literals RThree.literals

/-- Every literal is one that `read_int` can give (R45). -/
def Instr.literalsInRange (i : Instr) : Bool := i.literals.all Machine.inLitRange

/-- The operands were parsed (R48), or, for `mfc0`, are not read (spec/42_r_format.md R96). -/
def Instr.parsed (i : Instr) : Bool := i == .mfc0 || !i.literals.isEmpty

/-- A well-formed instruction: both checks. -/
def Instr.wellFormed (i : Instr) : Bool := i.parsed && i.literalsInRange

end Sys2Proof
end

