-- ==== Sys2Proof/Decode.lean ====
section
/-! DEFINITION. Two decoders and their encoders. The block reads TEXT: `decodeRequest` and `decodeLine`
turn any bytes into an instruction, or reject them by name, and `Instr.line` writes an instruction's
text. The block makes WORDS: `encode` gives an instruction's word, laid out field by field as
spec/opcode_table.json draws it, and `decodeWord` reads a word by that table's masks
(spec/30_encoding.md R61). -/

namespace Sys2Proof

open Machine

/-- Why bytes or a word are no instruction. -/
inductive Reject where
  /-- the mnemonic is not in the vocabulary (R39, R102): the block answers it by the R_THREE default -/
  | unknownMnemonic
  /-- no row of the table gives the word (R61): "treat them as unknown, not as an instruction" -/
  | wordNotInTable
  deriving DecidableEq, Repr

/-- What a decoder gives. -/
inductive Decoded where
  | instr (i : Instr)
  | rejected (why : Reject)
  deriving DecidableEq, Repr

/-! ## From text -/

/-- The instruction a vocabulary entry and an operand text name: the text parsed for the entry's shape
(R40, R49 to R57). `mfc0` reads no operand text (R96, spec/60_exceptions.md R109). -/
def Mnemonic.instr (m : Mnemonic) (t : Text) : Instr :=
  match m with
  | .j => .j (parseJTarget t)
  | .jal => .jal (parseJTarget t)
  | .addi => .addi (parseIArith t)
  | .addiu => .addiu (parseIArith t)
  | .andi => .andi (parseIArith t)
  | .ori => .ori (parseIArith t)
  | .lw => .lw (parseIMem t)
  | .sw => .sw (parseIMem t)
  | .lui => .lui (parseILui t)
  | .beq => .beq (parseIArith t)
  | .bne => .bne (parseIArith t)
  | .slti => .slti (parseIArith t)
  | .sltiu => .sltiu (parseIArith t)
  | .add => .add (parseRThree t)
  | .sub => .sub (parseRThree t)
  | .addu => .addu (parseRThree t)
  | .subu => .subu (parseRThree t)
  | .mult => .mult (parseRRsRt t)
  | .multu => .multu (parseRRsRt t)
  | .div => .div (parseRRsRt t)
  | .divu => .divu (parseRRsRt t)
  | .mfhi => .mfhi (parseRRd t)
  | .mflo => .mflo (parseRRd t)
  | .and => .and (parseRThree t)
  | .or => .or (parseRThree t)
  | .sll => .sll (parseRShift t)
  | .srl => .srl (parseRShift t)
  | .slt => .slt (parseRThree t)
  | .sltu => .sltu (parseRThree t)
  | .jr => .jr (parseRRs t)
  | .mfc0 => .mfc0
  | .rbit => .rbit (parseRRsRt t)
  | .rev => .rev (parseRRsRt t)
  | .add8 => .add8 (parseRThree t)
  | .sadd => .sadd (parseRThree t)
  | .ssub => .ssub (parseRThree t)

/-- The instruction of a request; an unknown mnemonic is rejected by name (R39, R40). -/
def decodeRequest (r : Request) : Decoded :=
  match lookupMnemonic r.mnem with
  | some m => .instr (m.instr r.opnd)
  | none => .rejected .unknownMnemonic

/-- The instruction of a line of the input file, of any bytes (R64). -/
def decodeLine (line : Text) : Decoded := decodeRequest (splitLine line)

/-! ## To text. DESIGN CHOICE: one text among those that name the instruction (log 16). -/

/-- The decimal digits of a number, at most `fuel` of them. -/
def decimalDigits : Nat → Nat → Text
  | 0, _ => []
  | fuel + 1, n =>
    if n < 10 then [BitVec.ofNat 8 (48 + n)]
    else decimalDigits fuel (n / 10) ++ [BitVec.ofNat 8 (48 + n % 10)]

/-- The text of a literal: a `-` where it is negative, and its digits. A literal has at most
`LIT_BITS` digits. -/
def intText (v : Int) : Text :=
  if v < 0 then byteOf '-' :: decimalDigits Config.litBits v.natAbs else decimalDigits Config.litBits v.natAbs

/-- The text of a register operand (R46). -/
def regText (v : Int) : Text := byteOf '$' :: intText v

/-- A comma and a space. -/
def commaText : Text := ascii [',', ' ']

/-- A text of this shape (R49). -/
def JTarget.text (o : JTarget) : Text := intText o.target

/-- A text of this shape (R50). -/
def IMem.text (o : IMem) : Text := regText o.rt ++ commaText ++ intText o.imm ++ ascii ['('] ++ regText o.rs ++ ascii [')']

/-- A text of this shape (R51). -/
def ILui.text (o : ILui) : Text := regText o.rt ++ commaText ++ intText o.imm

/-- A text of this shape (R52). -/
def IArith.text (o : IArith) : Text := regText o.rt ++ commaText ++ regText o.rs ++ commaText ++ intText o.imm

/-- A text of this shape (R53). -/
def RRs.text (o : RRs) : Text := regText o.rs

/-- A text of this shape (R54). -/
def RRd.text (o : RRd) : Text := regText o.rd

/-- A text of this shape (R55). -/
def RRsRt.text (o : RRsRt) : Text := regText o.rs ++ commaText ++ regText o.rt

/-- A text of this shape (R56). -/
def RShift.text (o : RShift) : Text := regText o.rd ++ commaText ++ regText o.rt ++ commaText ++ intText o.shamt

/-- A text of this shape (R57). -/
def RThree.text (o : RThree) : Text := regText o.rd ++ commaText ++ regText o.rs ++ commaText ++ regText o.rt

/-- An operand text that parses to this; the empty text is malformed for every shape (R48). -/
def Parsed.text {α : Type} (f : α → Text) : Parsed α → Text
  | .ok a => f a
  | .malformed => []

/-- An operand text of an instruction. -/
def Instr.operandText : Instr → Text
  | .j ops => ops.text JTarget.text
  | .jal ops => ops.text JTarget.text
  | .addi ops => ops.text IArith.text
  | .addiu ops => ops.text IArith.text
  | .andi ops => ops.text IArith.text
  | .ori ops => ops.text IArith.text
  | .lw ops => ops.text IMem.text
  | .sw ops => ops.text IMem.text
  | .lui ops => ops.text ILui.text
  | .beq ops => ops.text IArith.text
  | .bne ops => ops.text IArith.text
  | .slti ops => ops.text IArith.text
  | .sltiu ops => ops.text IArith.text
  | .add ops => ops.text RThree.text
  | .sub ops => ops.text RThree.text
  | .addu ops => ops.text RThree.text
  | .subu ops => ops.text RThree.text
  | .mult ops => ops.text RRsRt.text
  | .multu ops => ops.text RRsRt.text
  | .div ops => ops.text RRsRt.text
  | .divu ops => ops.text RRsRt.text
  | .mfhi ops => ops.text RRd.text
  | .mflo ops => ops.text RRd.text
  | .and ops => ops.text RThree.text
  | .or ops => ops.text RThree.text
  | .sll ops => ops.text RShift.text
  | .srl ops => ops.text RShift.text
  | .slt ops => ops.text RThree.text
  | .sltu ops => ops.text RThree.text
  | .jr ops => ops.text RRs.text
  | .mfc0 => []
  | .rbit ops => ops.text RRsRt.text
  | .rev ops => ops.text RRsRt.text
  | .add8 ops => ops.text RThree.text
  | .sadd ops => ops.text RThree.text
  | .ssub ops => ops.text RThree.text

/-- A line that names an instruction: `<mnemonic><space><operand text>` (R63). -/
def Instr.line (i : Instr) : Text := i.mnemonic.text ++ space :: i.operandText

/-! ## To a word -/

/-- A J-format word, field by field (R34). -/
def wordJ (opcode : BitVec 6) (target : Int) : Word := opcode ++ low 26 target

/-- An I-format word, field by field (R33). -/
def wordI (opcode : BitVec 6) (rs rt imm : Int) : Word := opcode ++ low 5 rs ++ low 5 rt ++ low 16 imm

/-- An R-format word, field by field; its opcode is 0 (R32). -/
def wordR (rs rt rd shamt : Int) (funct : BitVec 6) : Word :=
  0#6 ++ low 5 rs ++ low 5 rt ++ low 5 rd ++ low 5 shamt ++ funct

/-- The word of parsed operands; malformed operands have none. -/
def Parsed.word {α : Type} (f : α → Word) : Parsed α → Option Word
  | .ok a => some (f a)
  | .malformed => none

/-- The word of an instruction, by the patterns of spec/opcode_table.json, over the OPEN function codes.
`mfc0` has none (R96), and malformed operands give no determined one (R104). -/
def encodeWith (f : OpenFuncts) : Instr → Option Word
  | .j ops => ops.word fun o => wordJ 2 o.target
  | .jal ops => ops.word fun o => wordJ 3 o.target
  | .addi ops => ops.word fun o => wordI 8 o.rs o.rt o.imm
  | .addiu ops => ops.word fun o => wordI 9 o.rs o.rt o.imm
  | .andi ops => ops.word fun o => wordI 12 o.rs o.rt o.imm
  | .ori ops => ops.word fun o => wordI 13 o.rs o.rt o.imm
  | .lw ops => ops.word fun o => wordI 35 o.rs o.rt o.imm
  | .sw ops => ops.word fun o => wordI 43 o.rs o.rt o.imm
  | .lui ops => ops.word fun o => wordI 15 0 o.rt o.imm
  | .beq ops => ops.word fun o => wordI 4 o.rs o.rt o.imm
  | .bne ops => ops.word fun o => wordI 5 o.rs o.rt o.imm
  | .slti ops => ops.word fun o => wordI 10 o.rs o.rt o.imm
  | .sltiu ops => ops.word fun o => wordI 11 o.rs o.rt o.imm
  | .add ops => ops.word fun o => wordR o.rs o.rt o.rd 0 32
  | .sub ops => ops.word fun o => wordR o.rs o.rt o.rd 0 34
  | .addu ops => ops.word fun o => wordR o.rs o.rt o.rd 0 33
  | .subu ops => ops.word fun o => wordR o.rs o.rt o.rd 0 35
  | .mult ops => ops.word fun o => wordR o.rs o.rt 0 0 24
  | .multu ops => ops.word fun o => wordR o.rs o.rt 0 0 25
  | .div ops => ops.word fun o => wordR o.rs o.rt 0 0 26
  | .divu ops => ops.word fun o => wordR o.rs o.rt 0 0 27
  | .mfhi ops => ops.word fun o => wordR 0 0 o.rd 0 16
  | .mflo ops => ops.word fun o => wordR 0 0 o.rd 0 18
  | .and ops => ops.word fun o => wordR o.rs o.rt o.rd 0 36
  | .or ops => ops.word fun o => wordR o.rs o.rt o.rd 0 37
  | .sll ops => ops.word fun o => wordR 0 o.rt o.rd o.shamt 0
  | .srl ops => ops.word fun o => wordR 0 o.rt o.rd o.shamt 2
  | .slt ops => ops.word fun o => wordR o.rs o.rt o.rd 0 42
  | .sltu ops => ops.word fun o => wordR o.rs o.rt o.rd 0 43
  | .jr ops => ops.word fun o => wordR o.rs 0 0 0 8
  | .mfc0 => none
  | .rbit ops => ops.word fun o => wordR o.rs o.rt 0 0 f.rbit
  | .rev ops => ops.word fun o => wordR o.rs o.rt 0 0 f.rev
  | .add8 ops => ops.word fun o => wordR o.rs o.rt o.rd 0 f.add8
  | .sadd ops => ops.word fun o => wordR o.rs o.rt o.rd 0 f.sadd
  | .ssub ops => ops.word fun o => wordR o.rs o.rt o.rd 0 f.ssub

/-- The word of an instruction on this hardware. -/
def encode (i : Instr) : Option Word := encodeWith Config.openFuncts i

/-! ## From a word -/

/-- `w[lo+len-1 : lo]` as an operand (R8). -/
def fieldOf (w : Word) (lo len : Nat) : Int := (w.extractLsb' lo len).toNat

/-- The operands in the fields of a word of this shape (R58). -/
def JTarget.ofWord (w : Word) : JTarget where
  target := fieldOf w 0 26

/-- The operands in the fields of a word of this shape (R58). -/
def IMem.ofWord (w : Word) : IMem where
  rt := fieldOf w 16 5
  imm := fieldOf w 0 16
  rs := fieldOf w 21 5

/-- The operands in the fields of a word of this shape (R58). -/
def ILui.ofWord (w : Word) : ILui where
  rt := fieldOf w 16 5
  imm := fieldOf w 0 16

/-- The operands in the fields of a word of this shape (R58). -/
def IArith.ofWord (w : Word) : IArith where
  rt := fieldOf w 16 5
  rs := fieldOf w 21 5
  imm := fieldOf w 0 16

/-- The operands in the fields of a word of this shape (R58). -/
def RRs.ofWord (w : Word) : RRs where
  rs := fieldOf w 21 5

/-- The operands in the fields of a word of this shape (R58). -/
def RRd.ofWord (w : Word) : RRd where
  rd := fieldOf w 11 5

/-- The operands in the fields of a word of this shape (R58). -/
def RRsRt.ofWord (w : Word) : RRsRt where
  rs := fieldOf w 21 5
  rt := fieldOf w 16 5

/-- The operands in the fields of a word of this shape (R58). -/
def RShift.ofWord (w : Word) : RShift where
  rd := fieldOf w 11 5
  rt := fieldOf w 16 5
  shamt := fieldOf w 6 5

/-- The operands in the fields of a word of this shape (R58). -/
def RThree.ofWord (w : Word) : RThree where
  rd := fieldOf w 11 5
  rs := fieldOf w 21 5
  rt := fieldOf w 16 5

/-- A row of the table: the bits it fixes, their values, and the instruction of a word that has them. -/
structure Row where
  mask    : Word
  pattern : Word
  build   : Word → Instr

/-- The rows of the J and I formats. -/
def rowsJI : List Row :=
  [{ mask := 0xfc000000#32, pattern := 0x08000000#32, build := fun w => .j (.ok (.ofWord w)) },
    { mask := 0xfc000000#32, pattern := 0x0c000000#32, build := fun w => .jal (.ok (.ofWord w)) },
    { mask := 0xfc000000#32, pattern := 0x20000000#32, build := fun w => .addi (.ok (.ofWord w)) },
    { mask := 0xfc000000#32, pattern := 0x24000000#32, build := fun w => .addiu (.ok (.ofWord w)) },
    { mask := 0xfc000000#32, pattern := 0x30000000#32, build := fun w => .andi (.ok (.ofWord w)) },
    { mask := 0xfc000000#32, pattern := 0x34000000#32, build := fun w => .ori (.ok (.ofWord w)) },
    { mask := 0xfc000000#32, pattern := 0x8c000000#32, build := fun w => .lw (.ok (.ofWord w)) },
    { mask := 0xfc000000#32, pattern := 0xac000000#32, build := fun w => .sw (.ok (.ofWord w)) },
    { mask := 0xffe00000#32, pattern := 0x3c000000#32, build := fun w => .lui (.ok (.ofWord w)) },
    { mask := 0xfc000000#32, pattern := 0x10000000#32, build := fun w => .beq (.ok (.ofWord w)) },
    { mask := 0xfc000000#32, pattern := 0x14000000#32, build := fun w => .bne (.ok (.ofWord w)) },
    { mask := 0xfc000000#32, pattern := 0x28000000#32, build := fun w => .slti (.ok (.ofWord w)) },
    { mask := 0xfc000000#32, pattern := 0x2c000000#32, build := fun w => .sltiu (.ok (.ofWord w)) }]

/-- The rows of the R format whose function code the spec gives. -/
def rowsR : List Row :=
  [{ mask := 0xfc0007ff#32, pattern := 0x00000020#32, build := fun w => .add (.ok (.ofWord w)) },
    { mask := 0xfc0007ff#32, pattern := 0x00000022#32, build := fun w => .sub (.ok (.ofWord w)) },
    { mask := 0xfc0007ff#32, pattern := 0x00000021#32, build := fun w => .addu (.ok (.ofWord w)) },
    { mask := 0xfc0007ff#32, pattern := 0x00000023#32, build := fun w => .subu (.ok (.ofWord w)) },
    { mask := 0xfc00ffff#32, pattern := 0x00000018#32, build := fun w => .mult (.ok (.ofWord w)) },
    { mask := 0xfc00ffff#32, pattern := 0x00000019#32, build := fun w => .multu (.ok (.ofWord w)) },
    { mask := 0xfc00ffff#32, pattern := 0x0000001a#32, build := fun w => .div (.ok (.ofWord w)) },
    { mask := 0xfc00ffff#32, pattern := 0x0000001b#32, build := fun w => .divu (.ok (.ofWord w)) },
    { mask := 0xffff07ff#32, pattern := 0x00000010#32, build := fun w => .mfhi (.ok (.ofWord w)) }]
    ++
  [{ mask := 0xffff07ff#32, pattern := 0x00000012#32, build := fun w => .mflo (.ok (.ofWord w)) },
    { mask := 0xfc0007ff#32, pattern := 0x00000024#32, build := fun w => .and (.ok (.ofWord w)) },
    { mask := 0xfc0007ff#32, pattern := 0x00000025#32, build := fun w => .or (.ok (.ofWord w)) },
    { mask := 0xffe0003f#32, pattern := 0x00000000#32, build := fun w => .sll (.ok (.ofWord w)) },
    { mask := 0xffe0003f#32, pattern := 0x00000002#32, build := fun w => .srl (.ok (.ofWord w)) },
    { mask := 0xfc0007ff#32, pattern := 0x0000002a#32, build := fun w => .slt (.ok (.ofWord w)) },
    { mask := 0xfc0007ff#32, pattern := 0x0000002b#32, build := fun w => .sltu (.ok (.ofWord w)) },
    { mask := 0xfc1fffff#32, pattern := 0x00000008#32, build := fun w => .jr (.ok (.ofWord w)) }]

/-- The rows whose function code is OPEN. DESIGN CHOICE: they are tried after the others, in the table's
order; where an OPEN code equals another one, the word has two names (R62), and this decoder gives the
first (log 14). -/
def rowsOpen (f : OpenFuncts) : List Row :=
  [{ mask := 0xfc00ffff#32, pattern := place f.rbit 0, build := fun w => .rbit (.ok (.ofWord w)) },
    { mask := 0xfc00ffff#32, pattern := place f.rev 0, build := fun w => .rev (.ok (.ofWord w)) },
    { mask := 0xfc0007ff#32, pattern := place f.add8 0, build := fun w => .add8 (.ok (.ofWord w)) },
    { mask := 0xfc0007ff#32, pattern := place f.sadd 0, build := fun w => .sadd (.ok (.ofWord w)) },
    { mask := 0xfc0007ff#32, pattern := place f.ssub 0, build := fun w => .ssub (.ok (.ofWord w)) }]

/-- The table: `mfc0` has no row, for it has no word (R96). -/
def rows (f : OpenFuncts) : List Row := rowsJI ++ rowsR ++ rowsOpen f

/-- The instruction of a word, by the table; any other word is rejected by name (R61). -/
def decodeWordWith (f : OpenFuncts) (w : Word) : Decoded :=
  match (rows f).find? fun r => decide (w &&& r.mask = r.pattern) with
  | some r => .instr (r.build w)
  | none => .rejected .wordNotInTable

/-- The instruction of a word on this hardware. -/
def decodeWord (w : Word) : Decoded := decodeWordWith Config.openFuncts w

/-- The instruction of a decoding, if it is one. -/
def Decoded.instr? : Decoded → Option Instr
  | .instr i => some i
  | .rejected _ => none

/-- The decoder on the table's numbering of bits. Every word has 32 bits (R31), one value without a byte
order of its own (spec/20_memory.md R24; log 15). DESIGN CHOICE (log 25): a value of fewer than 32 bits is
read with zeros above it, so `decodeTableWord 0 0` is the instruction of the word 0, an `sll`; with more than
32 bits, or a value that `nbits` bits do not hold, there is none. -/
def decodeTableWord (nbits w : Nat) : Option Instr :=
  if nbits ≤ 32 ∧ w < 2 ^ nbits then (decodeWord (BitVec.ofNat 32 w)).instr? else none

/-! ## The truncated instruction: what a word keeps of one (R38) -/

/-- The value a field of `n` bits keeps of a literal. -/
def kept (n : Nat) (v : Int) : Int := (low n v).toNat

/-- The operands as the fields keep them (R38). -/
def JTarget.truncated (o : JTarget) : JTarget where
  target := kept 26 o.target

/-- The operands as the fields keep them (R38). -/
def IMem.truncated (o : IMem) : IMem where
  rt := kept 5 o.rt
  imm := kept 16 o.imm
  rs := kept 5 o.rs

/-- The operands as the fields keep them (R38). -/
def ILui.truncated (o : ILui) : ILui where
  rt := kept 5 o.rt
  imm := kept 16 o.imm

/-- The operands as the fields keep them (R38). -/
def IArith.truncated (o : IArith) : IArith where
  rt := kept 5 o.rt
  rs := kept 5 o.rs
  imm := kept 16 o.imm

/-- The operands as the fields keep them (R38). -/
def RRs.truncated (o : RRs) : RRs where
  rs := kept 5 o.rs

/-- The operands as the fields keep them (R38). -/
def RRd.truncated (o : RRd) : RRd where
  rd := kept 5 o.rd

/-- The operands as the fields keep them (R38). -/
def RRsRt.truncated (o : RRsRt) : RRsRt where
  rs := kept 5 o.rs
  rt := kept 5 o.rt

/-- The operands as the fields keep them (R38). -/
def RShift.truncated (o : RShift) : RShift where
  rd := kept 5 o.rd
  rt := kept 5 o.rt
  shamt := kept 5 o.shamt

/-- The operands as the fields keep them (R38). -/
def RThree.truncated (o : RThree) : RThree where
  rd := kept 5 o.rd
  rs := kept 5 o.rs
  rt := kept 5 o.rt

/-- The instruction with every operand as its field keeps it (R38). -/
def Instr.truncated : Instr → Instr
  | .j ops => .j (ops.map JTarget.truncated)
  | .jal ops => .jal (ops.map JTarget.truncated)
  | .addi ops => .addi (ops.map IArith.truncated)
  | .addiu ops => .addiu (ops.map IArith.truncated)
  | .andi ops => .andi (ops.map IArith.truncated)
  | .ori ops => .ori (ops.map IArith.truncated)
  | .lw ops => .lw (ops.map IMem.truncated)
  | .sw ops => .sw (ops.map IMem.truncated)
  | .lui ops => .lui (ops.map ILui.truncated)
  | .beq ops => .beq (ops.map IArith.truncated)
  | .bne ops => .bne (ops.map IArith.truncated)
  | .slti ops => .slti (ops.map IArith.truncated)
  | .sltiu ops => .sltiu (ops.map IArith.truncated)
  | .add ops => .add (ops.map RThree.truncated)
  | .sub ops => .sub (ops.map RThree.truncated)
  | .addu ops => .addu (ops.map RThree.truncated)
  | .subu ops => .subu (ops.map RThree.truncated)
  | .mult ops => .mult (ops.map RRsRt.truncated)
  | .multu ops => .multu (ops.map RRsRt.truncated)
  | .div ops => .div (ops.map RRsRt.truncated)
  | .divu ops => .divu (ops.map RRsRt.truncated)
  | .mfhi ops => .mfhi (ops.map RRd.truncated)
  | .mflo ops => .mflo (ops.map RRd.truncated)
  | .and ops => .and (ops.map RThree.truncated)
  | .or ops => .or (ops.map RThree.truncated)
  | .sll ops => .sll (ops.map RShift.truncated)
  | .srl ops => .srl (ops.map RShift.truncated)
  | .slt ops => .slt (ops.map RThree.truncated)
  | .sltu ops => .sltu (ops.map RThree.truncated)
  | .jr ops => .jr (ops.map RRs.truncated)
  | .mfc0 => .mfc0
  | .rbit ops => .rbit (ops.map RRsRt.truncated)
  | .rev ops => .rev (ops.map RRsRt.truncated)
  | .add8 ops => .add8 (ops.map RThree.truncated)
  | .sadd ops => .sadd (ops.map RThree.truncated)
  | .ssub ops => .ssub (ops.map RThree.truncated)

end Sys2Proof
end

