-- ==== Sys2Proof/Machine/State.lean ====
section
/-! DEFINITION. The machine's state (spec/10_state.md R12 to R21), the host's state, which drives it
(spec/30_encoding.md R64, R65, spec/60_exceptions.md R111, spec/70_reset_and_hazards.md R115, R118), and
the ways a step can stop. -/

namespace Sys2Proof.Machine

/-- Why the machine stops. The block itself raises none (spec/60_exceptions.md R106): both are the
host's, and both are safe, for the run is over and no request is left unanswered by them. -/
inductive Fault where
  /-- Raised by `step` after the end of a run (spec/70_reset_and_hazards.md R118): no request is left.
  Safe. -/
  | runEnded
  /-- Raised by `step` after a fatal I/O error has stopped the run (R111): "no request reaches the
  block". Safe. -/
  | fatalIo (e : FatalIo)
  deriving DecidableEq, Repr

/-- Why an instruction has no meaning. No instruction of this model is refused. -/
inductive Refusal where
  /-- Raised by `exec` for an instruction whose meaning is not written; no arm raises it. Safe. -/
  | notModelled (mnemonic : String)
  deriving DecidableEq, Repr

/-- How far the host's run has come (spec/70_reset_and_hazards.md R115, R118). -/
inductive Phase where
  /-- the tables are built; next, the input file is opened -/
  | openInput
  /-- the input is open; next, the output file is opened -/
  | openOutput
  /-- both files are open; each step presents one line -/
  | lines
  /-- the run has ended: the last line's output is written -/
  | ended
  /-- a fatal I/O error stopped the run (spec/60_exceptions.md R111) -/
  | failed (e : FatalIo)
  deriving DecidableEq, Repr

/-- The host: the line pipeline and its files (R5, R64, R65, R111, R115). -/
structure Pipeline where
  phase      : Phase
  /-- whether the environment lets the input file be opened -/
  inputOpens : Bool
  /-- whether the environment lets the output file be opened -/
  outputOpens : Bool
  /-- the run holds the input file -/
  inputHeld  : Bool
  /-- the run holds the output file -/
  outputHeld : Bool
  /-- the bytes of the input file not yet read -/
  input      : Text
  /-- the bytes written to the output file -/
  output     : Text
  /-- the reports written to the error stream, by kind: the source gives no text (R111, N16) -/
  reports    : List FatalIo
  /-- the "nonzero status" of a run that failed (R111) -/
  exitStatus : Option Nat
  deriving DecidableEq, Repr

/-- The whole state. The block's own is the two ROMs and the output ports: "No other state exists"
(R21). `pipe` is the host's; `draws` is the MODEL'S OWN, the counter of free values (log 4). -/
structure State where
  /-- the opcode ROM (R12, R41) -/
  opcRom    : Rom
  /-- the function-code ROM (R12, R42) -/
  fnRom     : Rom
  /-- output port `word` (R19) -/
  word      : Word
  /-- output port `diag_valid` (R19) -/
  diagValid : Bool
  /-- output port `diag_text` (R19) -/
  diagText  : Text
  /-- the host -/
  pipe      : Pipeline
  /-- the model's own: how many free values have been drawn (log 4) -/
  draws     : Nat
  deriving DecidableEq, Repr

/-- The outcome of a request or a step. -/
abbrev Result := Host.Outcome State Fault Refusal

/-- The host before it has done anything but build the tables (R114, R115). DESIGN CHOICE: the input
file is empty and both files can be opened (log 2, 18). -/
def Pipeline.reset : Pipeline where
  phase       := .openInput
  inputOpens  := true
  outputOpens := true
  inputHeld   := false
  outputHeld  := false
  input       := []
  output      := []
  reports     := []
  exitStatus  := none

/-- Right after reset: "The ROMs hold their fixed contents from the moment the block exists" (R113).
DESIGN CHOICE: the output ports, "unspecified until the first request" (R21), hold zeros (log 3); the
counter of free values starts at 0 (log 4). -/
def State.reset : State where
  opcRom    := opcRomContents Config.params
  fnRom     := fnRomContents Config.params
  word      := 0
  diagValid := false
  diagText  := []
  pipe      := Pipeline.reset
  draws     := 0

end Sys2Proof.Machine
end

