-- ==== Sys2Proof/Machine/Ops.lean ====
section
/-! DEFINITION. The operations the meanings share: the ROM reads, the field packers, the two kinds of
response and the answers per format (spec/30_encoding.md R35 to R38, R43, R60; spec/60_exceptions.md
R103, R104). The block has no traps and no return from one (R106, R107), so there is no exception entry;
the diagnostic is an answer like a word. -/

namespace Sys2Proof.Machine

/-! ## ROM reads -/

/-- `OPC(m)` (R43). -/
def State.opc (m : Text) (s : State) : Nat := Rom.read m s.opcRom

/-- `FUNCT(m)` (R43). -/
def State.funct (m : Text) (s : State) : Nat := Rom.read m s.fnRom

/-! ## Field packers -/

/-- `packR` (R35): every field masked to its width, the function code to 6 bits (`0x3F`, C3). -/
def packR (opc : Nat) (f : RFields) (fn : Nat) : Word :=
  place (low 6 opc) 26 ||| place (low 5 f.rs) 21 ||| place (low 5 f.rt) 16
    ||| place (low 5 f.rd) 11 ||| place (low 5 f.shamt) 6 ||| place (low 6 fn) 0

/-- `packI` (R36). -/
def packI (opc : Nat) (f : IFields) : Word :=
  place (low 6 opc) 26 ||| place (low 5 f.rs) 21 ||| place (low 5 f.rt) 16 ||| place (low 16 f.imm) 0

/-- `packJ` (R37). -/
def packJ (opc : Nat) (f : JFields) : Word := place (low 6 opc) 26 ||| place (low 26 f.target) 0

/-- The word for malformed text: the opcode-ROM value, and a free draw in bits 25:0 (R104). -/
def packMalformed (opc : Nat) (any : BitVec 26) : Word := place (low 6 opc) 26 ||| place any 0

/-! ## Responses. Each one draws: a free value is used once (log 4). -/

/-- `emit Word(w)`: `word = w`, `diag_valid = 0` (R19). `diag_text` then has no meaning: a free value
(log 22). -/
def State.emitWord (w : Word) (s : State) : State :=
  { s with word := w, diagValid := false, diagText := Config.freeDiagText s.draws, draws := s.draws + 1 }

/-- `emit Diag(d)`: `diag_valid = 1`, `diag_text = d`; `word` is an unconstrained value (R19; log 22). -/
def State.emitDiag (d : Text) (s : State) : State :=
  { s with word := Config.freeWord s.draws, diagValid := true, diagText := d, draws := s.draws + 1 }

/-! ## Answers -/

/-- The answer to malformed operand text (R104): no diagnostic, a word. DESIGN CHOICE: the spec's own
decision D9 (log 11). -/
def answerMalformed (m : Text) (s : State) : Result :=
  .next (s.emitWord (packMalformed (s.opc m) (Config.any26 s.draws)))

/-- The answer of format J (R60). -/
def answerJ (m : Text) (f : Parsed JFields) (s : State) : Result :=
  match f with
  | .ok f => .next (s.emitWord (packJ (s.opc m) f))
  | .malformed => answerMalformed m s

/-- The answer of format I (R60). -/
def answerI (m : Text) (f : Parsed IFields) (s : State) : Result :=
  match f with
  | .ok f => .next (s.emitWord (packI (s.opc m) f))
  | .malformed => answerMalformed m s

/-- The answer of format R (R60). -/
def answerR (m : Text) (f : Parsed RFields) (s : State) : Result :=
  match f with
  | .ok f => .next (s.emitWord (packR (s.opc m) f (s.funct m)))
  | .malformed => answerMalformed m s

/-- The answer to `mfc0`: the diagnostic (R60, R103). -/
def answerDiag (s : State) : Result := .next (s.emitDiag Config.mfc0Diag)

end Sys2Proof.Machine
end

