-- ==== Sys2Proof/Machine/IFormat.lean ====
section
/-! DEFINITION. The I-format family (spec/41_i_format.md R68 to R78). -/

namespace Sys2Proof.Machine

/-- `addi $rt, $rs, imm` (R68). -/
def execAddi (ops : Parsed IArith) (s : State) : Result := answerI Mnemonic.addi.text (ops.map muxIArith) s

/-- `addiu $rt, $rs, imm` (R69). -/
def execAddiu (ops : Parsed IArith) (s : State) : Result := answerI Mnemonic.addiu.text (ops.map muxIArith) s

/-- `andi $rt, $rs, imm` (R70). -/
def execAndi (ops : Parsed IArith) (s : State) : Result := answerI Mnemonic.andi.text (ops.map muxIArith) s

/-- `ori $rt, $rs, imm` (R71). -/
def execOri (ops : Parsed IArith) (s : State) : Result := answerI Mnemonic.ori.text (ops.map muxIArith) s

/-- `lw $rt, imm($rs)` (R72). -/
def execLw (ops : Parsed IMem) (s : State) : Result := answerI Mnemonic.lw.text (ops.map muxIMem) s

/-- `sw $rt, imm($rs)` (R73). -/
def execSw (ops : Parsed IMem) (s : State) : Result := answerI Mnemonic.sw.text (ops.map muxIMem) s

/-- `lui $rt, imm` (R74). -/
def execLui (ops : Parsed ILui) (s : State) : Result := answerI Mnemonic.lui.text (ops.map muxILui) s

/-- `beq $rt, $rs, imm` (R75). -/
def execBeq (ops : Parsed IArith) (s : State) : Result := answerI Mnemonic.beq.text (ops.map muxIArith) s

/-- `bne $rt, $rs, imm` (R76). -/
def execBne (ops : Parsed IArith) (s : State) : Result := answerI Mnemonic.bne.text (ops.map muxIArith) s

/-- `slti $rt, $rs, imm` (R77). -/
def execSlti (ops : Parsed IArith) (s : State) : Result := answerI Mnemonic.slti.text (ops.map muxIArith) s

/-- `sltiu $rt, $rs, imm` (R78). -/
def execSltiu (ops : Parsed IArith) (s : State) : Result := answerI Mnemonic.sltiu.text (ops.map muxIArith) s

end Sys2Proof.Machine
end

