-- ==== Sys2Proof/Machine/JFormat.lean ====
section
/-! DEFINITION. The J-format family (spec/40_j_format.md R66, R67). -/

namespace Sys2Proof.Machine

/-- `j target` (R66). -/
def execJ (ops : Parsed JTarget) (s : State) : Result := answerJ Mnemonic.j.text (ops.map muxJTarget) s

/-- `jal target` (R67). -/
def execJal (ops : Parsed JTarget) (s : State) : Result := answerJ Mnemonic.jal.text (ops.map muxJTarget) s

end Sys2Proof.Machine
end

