-- ==== Sys2Proof/Machine/RFormat.lean ====
section
/-! DEFINITION. The R-format family (spec/42_r_format.md R79 to R102). -/

namespace Sys2Proof.Machine

/-- `add $rd, $rs, $rt` (R79). -/
def execAdd (ops : Parsed RThree) (s : State) : Result := answerR Mnemonic.add.text (ops.map muxRThree) s

/-- `sub $rd, $rs, $rt` (R80). -/
def execSub (ops : Parsed RThree) (s : State) : Result := answerR Mnemonic.sub.text (ops.map muxRThree) s

/-- `addu $rd, $rs, $rt` (R81). -/
def execAddu (ops : Parsed RThree) (s : State) : Result := answerR Mnemonic.addu.text (ops.map muxRThree) s

/-- `subu $rd, $rs, $rt` (R82). -/
def execSubu (ops : Parsed RThree) (s : State) : Result := answerR Mnemonic.subu.text (ops.map muxRThree) s

/-- `mult $rs, $rt` (R83). -/
def execMult (ops : Parsed RRsRt) (s : State) : Result := answerR Mnemonic.mult.text (ops.map muxRRsRt) s

/-- `multu $rs, $rt` (R84). -/
def execMultu (ops : Parsed RRsRt) (s : State) : Result := answerR Mnemonic.multu.text (ops.map muxRRsRt) s

/-- `div $rs, $rt` (R85). -/
def execDiv (ops : Parsed RRsRt) (s : State) : Result := answerR Mnemonic.div.text (ops.map muxRRsRt) s

/-- `divu $rs, $rt` (R86). -/
def execDivu (ops : Parsed RRsRt) (s : State) : Result := answerR Mnemonic.divu.text (ops.map muxRRsRt) s

/-- `mfhi $rd` (R87). -/
def execMfhi (ops : Parsed RRd) (s : State) : Result := answerR Mnemonic.mfhi.text (ops.map muxRRd) s

/-- `mflo $rd` (R88). -/
def execMflo (ops : Parsed RRd) (s : State) : Result := answerR Mnemonic.mflo.text (ops.map muxRRd) s

/-- `and $rd, $rs, $rt` (R89). -/
def execAnd (ops : Parsed RThree) (s : State) : Result := answerR Mnemonic.and.text (ops.map muxRThree) s

/-- `or $rd, $rs, $rt` (R90). -/
def execOr (ops : Parsed RThree) (s : State) : Result := answerR Mnemonic.or.text (ops.map muxRThree) s

/-- `sll $rd, $rt, shamt` (R91). -/
def execSll (ops : Parsed RShift) (s : State) : Result := answerR Mnemonic.sll.text (ops.map muxRShift) s

/-- `srl $rd, $rt, shamt` (R92). -/
def execSrl (ops : Parsed RShift) (s : State) : Result := answerR Mnemonic.srl.text (ops.map muxRShift) s

/-- `slt $rd, $rs, $rt` (R93). -/
def execSlt (ops : Parsed RThree) (s : State) : Result := answerR Mnemonic.slt.text (ops.map muxRThree) s

/-- `sltu $rd, $rs, $rt` (R94). -/
def execSltu (ops : Parsed RThree) (s : State) : Result := answerR Mnemonic.sltu.text (ops.map muxRThree) s

/-- `jr $rs` (R95). -/
def execJr (ops : Parsed RRs) (s : State) : Result := answerR Mnemonic.jr.text (ops.map muxRRs) s

/-- `mfc0` (R96): the fixed diagnostic in place of a word, whatever the operand text. -/
def execMfc0 (s : State) : Result := answerDiag s

/-- `rbit $rs, $rt` (R97). -/
def execRbit (ops : Parsed RRsRt) (s : State) : Result := answerR Mnemonic.rbit.text (ops.map muxRRsRt) s

/-- `rev $rs, $rt` (R98). -/
def execRev (ops : Parsed RRsRt) (s : State) : Result := answerR Mnemonic.rev.text (ops.map muxRRsRt) s

/-- `add8 $rd, $rs, $rt` (R99). -/
def execAdd8 (ops : Parsed RThree) (s : State) : Result := answerR Mnemonic.add8.text (ops.map muxRThree) s

/-- `sadd $rd, $rs, $rt` (R100). -/
def execSadd (ops : Parsed RThree) (s : State) : Result := answerR Mnemonic.sadd.text (ops.map muxRThree) s

/-- `ssub $rd, $rs, $rt` (R101). -/
def execSsub (ops : Parsed RThree) (s : State) : Result := answerR Mnemonic.ssub.text (ops.map muxRThree) s

/-- An unknown mnemonic (R102): the R_THREE default. Its opcode and function code are what the tables read
at its bytes, 0 for a missing entry (spec/30_encoding.md R43). It is no row of the table (log 12). -/
def execUnknown (m : Text) (ops : Parsed RThree) (s : State) : Result := answerR m (ops.map muxRThree) s

end Sys2Proof.Machine
end

