-- ==== Sys2Proof/Machine/Dispatch.lean ====
section
/-! DEFINITION. The dispatch: one arm for each instruction. -/

namespace Sys2Proof.Machine

def exec (i : Instr) (s : State) : Host.Outcome State Fault Refusal :=
  match i with
  | .j ops => Sys2Proof.Machine.execJ ops s
  | .jal ops => Sys2Proof.Machine.execJal ops s
  | .addi ops => Sys2Proof.Machine.execAddi ops s
  | .addiu ops => Sys2Proof.Machine.execAddiu ops s
  | .andi ops => Sys2Proof.Machine.execAndi ops s
  | .ori ops => Sys2Proof.Machine.execOri ops s
  | .lw ops => Sys2Proof.Machine.execLw ops s
  | .sw ops => Sys2Proof.Machine.execSw ops s
  | .lui ops => Sys2Proof.Machine.execLui ops s
  | .beq ops => Sys2Proof.Machine.execBeq ops s
  | .bne ops => Sys2Proof.Machine.execBne ops s
  | .slti ops => Sys2Proof.Machine.execSlti ops s
  | .sltiu ops => Sys2Proof.Machine.execSltiu ops s
  | .add ops => Sys2Proof.Machine.execAdd ops s
  | .sub ops => Sys2Proof.Machine.execSub ops s
  | .addu ops => Sys2Proof.Machine.execAddu ops s
  | .subu ops => Sys2Proof.Machine.execSubu ops s
  | .mult ops => Sys2Proof.Machine.execMult ops s
  | .multu ops => Sys2Proof.Machine.execMultu ops s
  | .div ops => Sys2Proof.Machine.execDiv ops s
  | .divu ops => Sys2Proof.Machine.execDivu ops s
  | .mfhi ops => Sys2Proof.Machine.execMfhi ops s
  | .mflo ops => Sys2Proof.Machine.execMflo ops s
  | .and ops => Sys2Proof.Machine.execAnd ops s
  | .or ops => Sys2Proof.Machine.execOr ops s
  | .sll ops => Sys2Proof.Machine.execSll ops s
  | .srl ops => Sys2Proof.Machine.execSrl ops s
  | .slt ops => Sys2Proof.Machine.execSlt ops s
  | .sltu ops => Sys2Proof.Machine.execSltu ops s
  | .jr ops => Sys2Proof.Machine.execJr ops s
  | .mfc0 => Sys2Proof.Machine.execMfc0 s
  | .rbit ops => Sys2Proof.Machine.execRbit ops s
  | .rev ops => Sys2Proof.Machine.execRev ops s
  | .add8 ops => Sys2Proof.Machine.execAdd8 ops s
  | .sadd ops => Sys2Proof.Machine.execSadd ops s
  | .ssub ops => Sys2Proof.Machine.execSsub ops s

end Sys2Proof.Machine
end

