-- ==== Sys2Proof/Machine/Encoder.lean ====
section
/-! DEFINITION. The encoder: one request and its response (spec/30_encoding.md R60,
spec/60_exceptions.md R109). -/

namespace Sys2Proof.Machine

/-- `encode(m, t)`: the request's instruction is executed; an unknown mnemonic takes the R_THREE default
(R60, R102). `mfc0` is found before any operand text is read (R109). -/
def answer (r : Request) (s : State) : Result :=
  match decodeRequest r with
  | .instr i => exec i s
  | .rejected _ => execUnknown r.mnem (parseRThree r.opnd) s

/-- The two kinds of response (spec/60_exceptions.md R103). -/
inductive Response where
  | word (w : Word)
  | diag (d : Text)
  deriving DecidableEq, Repr

/-- The response on the output ports: `word` is meaningful only when `diag_valid` = 0
(spec/10_state.md R19). -/
def State.response (s : State) : Response := if s.diagValid then .diag s.diagText else .word s.word

end Sys2Proof.Machine
end

