-- ==== Sys2Proof/Machine/Pipeline.lean ====
section
/-! DEFINITION. The host: start-up, one line, the end of the run (spec/30_encoding.md R64, R65,
spec/60_exceptions.md R111, spec/70_reset_and_hazards.md R115, R118). -/

namespace Sys2Proof.Machine

/-- A response as the host writes it, without the line's end (R65). -/
def Response.text : Response → Text
  | .word w => hexWord w
  | .diag d => d

/-- The state with this much of the input file unread. -/
def State.withInput (rest : Text) (s : State) : State := { s with pipe := { s.pipe with input := rest } }

/-- One output line for the response on the ports, ended by LF (R65, D15). -/
def State.writeLine (s : State) : State :=
  { s with pipe := { s.pipe with output := s.pipe.output ++ s.response.text ++ [lineFeed] } }

/-- The host's writing after an answer. -/
def writeAnswer : Result → Result
  | .next t => .next t.writeLine
  | .fault f => .fault f
  | .refused r => .refused r

/-- One line: it is read, split into a request, answered, and the answer written (R64, R65; R28). -/
def presentLine (line rest : Text) (s : State) : Result :=
  writeAnswer (answer (splitLine line) (s.withInput rest))

/-- A fatal I/O error: every file is released, a report is written, the status is not 0 (R111, R106;
log 19). -/
def State.failIo (e : FatalIo) (s : State) : State :=
  { s with pipe := { s.pipe with
      phase := .failed e, inputHeld := false, outputHeld := false
      reports := s.pipe.reports ++ [e], exitStatus := some (Config.failStatus e) } }

/-- "It opens the input file. If this fails, it stops" (R115). -/
def State.openInputFile (s : State) : State :=
  if s.pipe.inputOpens then { s with pipe := { s.pipe with phase := .openOutput, inputHeld := true } }
  else s.failIo .inputNotOpened

/-- "It opens the output file. If this fails, it releases the input and stops" (R115). -/
def State.openOutputFile (s : State) : State :=
  if s.pipe.outputOpens then { s with pipe := { s.pipe with phase := .lines, outputHeld := true } }
  else s.failIo .outputNotOpened

/-- The end of a run: the files are released (R118, R111; log 20). -/
def State.endRun (s : State) : State :=
  { s with pipe := { s.pipe with phase := .ended, inputHeld := false, outputHeld := false } }

/-- A step in the phase of presenting lines: the next line, or the end of the run where none is left. -/
def stepLines (s : State) : Result :=
  match nextLine s.pipe.input with
  | some (line, rest) => presentLine line rest s
  | none => .next s.endRun

/-- The state in which the next step reads this text first: both files are open, and the text stands
before the unread input (log 2). -/
def State.withText (t : Text) (s : State) : State :=
  { s with pipe := { s.pipe with
      phase := .lines, inputHeld := true, outputHeld := true, input := t ++ s.pipe.input } }

end Sys2Proof.Machine
end

