-- ==== Sys2Proof/Machine/Step.lean ====
section
/-! DEFINITION. The step: one whole request and its response, or one act of the host
(spec/00_scope.md R5; log 1). -/

namespace Sys2Proof.Machine

/-- One step, by the host's phase (spec/70_reset_and_hazards.md R115, R118). -/
def step (s : State) : Host.Outcome State Fault Refusal :=
  match s.pipe.phase with
  | .openInput => .next s.openInputFile
  | .openOutput => .next s.openOutputFile
  | .lines => stepLines s
  | .ended => .fault .runEnded
  | .failed e => .fault (.fatalIo e)

/-- The state whose next step runs the instruction of this word: a line that names it is the first one
unread, and the host is presenting lines (log 2). A word that is no instruction's has no line: then
nothing is left to read (log 17). -/
def State.withFetchWord (s : State) (nbits w : Nat) : State :=
  match decodeTableWord nbits w with
  | some i => s.withText (i.line ++ [lineFeed])
  | none => (s.withInput []).withText []

end Sys2Proof.Machine
end

