-- ==== Sys2Proof/Safety.lean ====
section
/-! DEFINITION. The terms claims use: the built ROMs, the answers a request can get, and the invariant of
a run. -/

namespace Sys2Proof.Machine

/-- The two ROMs hold their contents, for these table parameters (spec/30_encoding.md R41, R42). A claim
stated for every `p` holds whatever the values behind "etc." and the OPEN codes are (D10, D11). -/
def RomsBuilt (p : Params) (s : State) : Prop :=
  s.opcRom = opcRomContents p ∧ s.fnRom = fnRomContents p

/-- A request leaves the ROMs and the host alone (spec/10_state.md R12; spec/20_memory.md R22). All that is left
to change are the output ports and the model's own counter of draws. -/
def Unchanged (s t : State) : Prop :=
  t.opcRom = s.opcRom ∧ t.fnRom = s.fnRom ∧ t.pipe = s.pipe

/-- The outcome is a next state: `word` is this word, `diag_valid` is 0, nothing else is written. -/
def WordAnswer (r : Result) (s : State) (w : Word) : Prop :=
  ∃ t, r = .next t ∧ t.word = w ∧ t.diagValid = false ∧ Unchanged s t

/-- The outcome is a next state: bits 31:26 of `word` are the opcode, nothing is said of the others,
`diag_valid` is 0, nothing else is written (spec/60_exceptions.md R104). -/
def MalformedAnswer (r : Result) (s : State) (opcode : BitVec 6) : Prop :=
  ∃ t, r = .next t ∧ t.word.extractLsb' 26 6 = opcode ∧ t.diagValid = false ∧ Unchanged s t

/-- The outcome is a next state: `diag_valid` is 1, `diag_text` is MFC0_DIAG, nothing else is written
(spec/60_exceptions.md R103). -/
def DiagAnswer (r : Result) (s : State) : Prop :=
  ∃ t, r = .next t ∧ t.diagValid = true ∧ t.diagText = Config.mfc0Diag ∧ Unchanged s t

/-- The response a request determines: none for malformed text, whose word is not determined
(spec/10_state.md R17, C5). Written from the table's encodings, not from the answer operations. -/
def determinedResponse (r : Request) : Option Response :=
  match decodeRequest r with
  | .instr .mfc0 => some (.diag Config.mfc0Diag)
  | .instr i => (encode i).map .word
  | .rejected _ => ((parseRThree r.opnd).word fun o => wordR o.rs o.rt o.rd 0 0).map .word

/-- A request whose response is determined: well-formed operand text, or `mfc0`, whose text is not read
(spec/30_encoding.md R48, spec/60_exceptions.md R109). -/
def wellFormedRequest (r : Request) : Bool :=
  match decodeRequest r with
  | .instr i => i.parsed
  | .rejected _ => parseRThree r.opnd != .malformed

/-- The request gets the same response in both states: of the same kind, a word with the same opcode
field, and, where its operand text is well-formed, the same word or diagnostic (R17, R103). -/
def SameResponse (r : Request) (s t : State) : Prop :=
  ∃ u v, answer r s = .next u ∧ answer r t = .next v ∧ u.diagValid = v.diagValid ∧
    (u.diagValid = false → u.word.extractLsb' 26 6 = v.word.extractLsb' 26 6) ∧
    (wellFormedRequest r = true → u.response = v.response)

/-- The five OPEN function codes differ from each other and from every code the spec gives (R42): the
premise under which a word of theirs names one instruction (R62). -/
def OpenCodesDistinct (f : OpenFuncts) : Prop :=
  ([f.rbit, f.rev, f.add8, f.sadd, f.ssub] ++
    [32, 34, 33, 35, 24, 25, 26, 27, 16, 18, 36, 37, 0, 2, 42, 43, 8]).Nodup

/-! ## The encoder as the spec's pseudocode has it (R60) -/

/-- What `parse_S` returns (R49 to R57): the fields of the shape's format, the others 0. -/
structure AllFields where
  rs     : Int := 0
  rt     : Int := 0
  rd     : Int := 0
  shamt  : Int := 0
  imm    : Int := 0
  target : Int := 0
  deriving DecidableEq, Repr

/-- `parse_S(t)` for the shape S (R49 to R57); `mfc0`'s shape has no parser (R40). -/
def parseShape (shape : Shape) (t : Text) : Parsed AllFields :=
  match shape with
  | .jTarget => (parseJTarget t).map fun o => { target := o.target }
  | .iMem => (parseIMem t).map fun o => { rs := o.rs, rt := o.rt, imm := o.imm }
  | .iLui => (parseILui t).map fun o => { rs := 0, rt := o.rt, imm := o.imm }
  | .iArith => (parseIArith t).map fun o => { rs := o.rs, rt := o.rt, imm := o.imm }
  | .rRs => (parseRRs t).map fun o => { rs := o.rs, rt := 0, rd := 0, shamt := 0 }
  | .rRd => (parseRRd t).map fun o => { rs := 0, rt := 0, rd := o.rd, shamt := 0 }
  | .rRsRt => (parseRRsRt t).map fun o => { rs := o.rs, rt := o.rt, rd := 0, shamt := 0 }
  | .rShift => (parseRShift t).map fun o => { rs := 0, rt := o.rt, rd := o.rd, shamt := o.shamt }
  | .rThree => (parseRThree t).map fun o => { rs := o.rs, rt := o.rt, rd := o.rd, shamt := 0 }
  | .unimpl => .malformed

/-- `encode(m, t)`, line by line (R60): by the byte string's shape and format, where `exec` has one
meaning for each instruction. -/
def pseudocode (m t : Text) (s : State) : Result :=
  if m = ascii ['m', 'f', 'c', '0'] then .next (s.emitDiag Config.mfc0Diag)
  else
    match parseShape (classifyShape m) t with
    | .malformed => .next (s.emitWord (place (low 6 (s.opc m)) 26 ||| place (Config.any26 s.draws) 0))
    | .ok r =>
      match classifyFormat m with
      | .J => .next (s.emitWord (packJ (s.opc m) { target := r.target }))
      | .I => .next (s.emitWord (packI (s.opc m) { rs := r.rs, rt := r.rt, imm := r.imm }))
      | .R => .next (s.emitWord
          (packR (s.opc m) { rs := r.rs, rt := r.rt, rd := r.rd, shamt := r.shamt } (s.funct m)))

/-! ## Runs -/

/-- The lines of an input file (spec/30_encoding.md R64). -/
def linesOf : Text → List Text
  | [] => []
  | c :: t =>
    if c = lineFeed then [] :: linesOf t
    else
      match linesOf t with
      | [] => [[c]]
      | line :: rest => (c :: line) :: rest

/-- The output lines, each ended by LF, that the responses to these lines make (R65); a line whose
response is not determined gives none here, and no claim is made of it. -/
def determinedOutput (lines : List Text) : Text :=
  lines.flatMap fun l =>
    match determinedResponse (splitLine l) with
    | some r => r.text ++ [lineFeed]
    | none => []

/-- The value of a lowercase hexadecimal digit (R65). -/
def hexDigitValue (c : Byte) : Nat := if c.toNat < 97 then c.toNat - 48 else c.toNat - 87

/-- The value of hexadecimal digits, most significant first (R65). -/
def hexValue (t : Text) : Nat := t.foldl (fun v c => 16 * v + hexDigitValue c) 0

/-- A digit `0`-`9` or `a`-`f` (R65). -/
def isHexDigit (c : Byte) : Bool := (48 ≤ c.toNat && c.toNat ≤ 57) || (97 ≤ c.toNat && c.toNat ≤ 102)

/-- A text of whole lines: empty, or ended by LF (R65). -/
def wholeLines (t : Text) : Bool :=
  match t.getLast? with
  | none => true
  | some c => c == lineFeed

/-- The host holds exactly the files its phase needs: "Resources are scoped to the run and released on
every exit path" (R111). -/
def heldAsPhase (p : Pipeline) : Bool :=
  match p.phase with
  | .openInput => !p.inputHeld && !p.outputHeld
  | .openOutput => p.inputHeld && !p.outputHeld
  | .lines => p.inputHeld && p.outputHeld
  | .ended => !p.inputHeld && !p.outputHeld
  | .failed _ => !p.inputHeld && !p.outputHeld

/-- A run has a failing status and a report exactly when a fatal I/O error stopped it, and the status is
not 0 (R111). -/
def failureAsPhase (p : Pipeline) : Bool :=
  match p.phase with
  | .failed e => p.reports == [e] && p.exitStatus.any (· != 0)
  | .openInput => p.reports.isEmpty && p.exitStatus.isNone
  | .openOutput => p.reports.isEmpty && p.exitStatus.isNone
  | .lines => p.reports.isEmpty && p.exitStatus.isNone
  | .ended => p.reports.isEmpty && p.exitStatus.isNone

/-- The invariant of a run. -/
structure Inv (p : Params) (s : State) : Prop where
  /-- the ROMs never change (R12, R22) -/
  roms    : RomsBuilt p s
  /-- a diagnostic on the ports is MFC0_DIAG (R19) -/
  diag    : s.diagValid = true → s.diagText = Config.mfc0Diag
  /-- the files held are those the phase needs (R111) -/
  held    : heldAsPhase s.pipe = true
  /-- a failure is reported, with a nonzero status, and only a failure is (R111; of the output too, log 19;
  a run that ends keeps no status, log 20) -/
  failure : failureAsPhase s.pipe = true
  /-- the output file holds whole lines (R65, R118; D15, log 23) -/
  output  : wholeLines s.pipe.output = true

end Sys2Proof.Machine
end

