-- ==== Sys2Proof/Certificates/Slice0/Obligations.lean ====
section
/-! DEFINITION. The statements for the provers. Each docstring says what its statement claims; the rules it
rests on are listed in OBLIGATIONS.json. -/

open Sys2Proof Sys2Proof.Machine

/-- After reset the two ROMs hold their contents, for this hardware's table parameters, and the host has
opened no file, presented no line and written none. (That the input file is empty, and that it can be
opened, is the model's choice, log 2 and 18; nothing is said here of the output ports, which log 3
names.) -/
def Obligations.ResetBuildsTheRoms : Prop :=
  RomsBuilt Config.params State.reset ∧
    State.reset.pipe.phase = .openInput ∧
    State.reset.pipe.inputHeld = false ∧ State.reset.pipe.outputHeld = false ∧
    State.reset.pipe.output = []

/-- The invariant of a run holds after reset (the start of the induction that the next statement continues).
Its clauses on the ports, the host and the output hold there by the model's choices: R21 and R113 leave
the ports unspecified before the first request, and reset sets diag_valid to 0 (log 3); reset holds no
file, an empty output (log 2) and no report or status (log 19). -/
def Obligations.ResetMeetsTheRunInvariant : Prop :=
  Inv Config.params State.reset

/-- From EVERY state that meets the invariant (not only runs from reset), if a step answers a next state,
that state meets it: the ROMs hold their contents, a diagnostic on the ports is MFC0_DIAG, the host
holds exactly the files its phase needs and none after the run has ended or failed, a failure and only a
failure has its report and a nonzero status, and the output file holds whole lines. (Model's choices:
that the output is whole lines rests on the spec's decision D15, log 23; that the ended phase has no
status is log 20; that a failed opening of the output is reported too, and its status, is log 19.) -/
def Obligations.EveryStepKeepsTheRunInvariant : Prop :=
  ∀ (p : Params) (s s' : State), Inv p s → step s = .next s' → Inv p s'

/-- In every state, whatever the ROMs hold: a request answers a next state in which both ROMs and the host
are as before, and no step changes either ROM. (The frame of every instruction: all that is left to
change are the output ports and the model's own counter of draws, log 4.) -/
def Obligations.NoStepWritesTheRoms : Prop :=
  (∀ (i : Instr) (s : State), ∃ t, exec i s = .next t ∧ Unchanged s t) ∧
  (∀ (r : Request) (s : State), ∃ t, answer r s = .next t ∧ Unchanged s t) ∧
  (∀ s t : State, step s = .next t → t.opcRom = s.opcRom ∧ t.fnRom = s.fnRom)

/-- While lines are presented, where the next line decodes to an instruction, the step is exec of it, in the
state with the line read, and then the output line is written; where its mnemonic is unknown, the step
is the R_THREE default instead. A line is read whole, with its LF. (That one step is the line read, exec
and the output line written is the model's choice, log 1, which takes the spec's decision D1 to the
host; that an unknown mnemonic is answered outside exec is log 12.) -/
def Obligations.StepRunsTheInstructionOfTheNextLine : Prop :=
  ∀ (s : State) (line rest : Text), s.pipe.phase = .lines → nextLine s.pipe.input = some (line, rest) →
    (∀ i, decodeLine line = .instr i → step s = writeAnswer (exec i (s.withInput rest))) ∧
    (∀ why, decodeLine line = .rejected why → step s =
      writeAnswer (execUnknown (splitLine line).mnem (parseRThree (splitLine line).opnd) (s.withInput rest)))

/-- What a step adds after exec: the response on the ports, as text, and an LF (D15) are appended to the
output; the ROMs, the ports and the rest of the host are as the answer left them. (LF and digit order
are the spec's decisions D15 and D16, log 23; that it is the same step is log 1.) -/
def Obligations.WrittenLineIsTheResponse : Prop :=
  ∀ (t : State), ∃ u, writeAnswer (.next t) = .next u ∧
    u.pipe = { t.pipe with output :=
      t.pipe.output ++ (if t.diagValid then t.diagText else hexWord t.word) ++ [lineFeed] } ∧
    u.opcRom = t.opcRom ∧ u.fnRom = t.fnRom ∧ u.word = t.word ∧ u.diagValid = t.diagValid ∧
    u.diagText = t.diagText

/-- For every word and every value of the OPEN function codes: if the table's decoder gives an instruction,
the instruction's word is that word. No bit of a decoded word is dropped. (Which of two names a word
gets is log 14; the statement holds for either. The codes behind "etc." are the spec's defaults, D10,
log 5; shamt 0 of three registers is D12, log 10.) -/
def Obligations.DecodedWordEncodesBack : Prop :=
  ∀ (f : OpenFuncts) (w : Word) (i : Instr), decodeWordWith f w = .instr i → encodeWith f i = some w

/-- For every instruction with a word, of the 30 mnemonics whose opcode and function code the spec gives
(with its defaults, D10, log 5; the decoder is log 14; shamt 0 of three registers is D12, log 10), every
operand at EVERY integer: decoding the word gives the instruction with each operand as its field keeps
it; so decode of encode is the identity on operands that fit. -/
def Obligations.EncodedWordDecodesToTheTruncatedInstruction : Prop :=
  ∀ (f : OpenFuncts) (i : Instr) (w : Word), i.mnemonic ∉ [.rbit, .rev, .add8, .sadd, .ssub] →
    encodeWith f i = some w → decodeWordWith f w = .instr i.truncated

/-- For the five mnemonics with OPEN function codes, wherever those codes differ from each other and from
every given code (without that a word has two names, R62 (c), log 14; the codes are D11, log 6; the
given ones take the defaults of D10, log 5; shamt 0 is D12, log 10): decoding the word gives the
instruction back, truncated. -/
def Obligations.OpenCodeWordDecodesToTheTruncatedInstruction : Prop :=
  ∀ (f : OpenFuncts) (i : Instr) (w : Word), OpenCodesDistinct f →
    i.mnemonic ∈ [.rbit, .rev, .add8, .sadd, .ssub] →
    encodeWith f i = some w → decodeWordWith f w = .instr i.truncated

/-- For EVERY instruction whose literals are literals (malformed operands and mfc0 included), the line
written for it (one text among many, log 16) splits, classifies and parses to exactly that instruction,
whatever its operands, negative and out of their field's range included. (That a register number may be
negative, as in $-1, and that whitespace may stand before a token, are the spec's decisions D5 and D6,
log 9; the range of a literal is its LIT_BITS = 32, log 8. That mfc0's operand text is not parsed is
R96.) -/
def Obligations.LineNamesItsInstruction : Prop :=
  ∀ (i : Instr), i.literalsInRange = true → decodeLine i.line = .instr i

/-- For every state with the ROMs built and every word the table decodes: with the word's instruction as the
next line, one step answers exactly that word, with no diagnostic, and appends its 8 hex digits and LF
to the output, and the rest of the input is next. (Decoder, text, classifier, parser, ROMs, multiplexer,
packer and host together. Model's choices: the digits and the LF are the spec's D15 and D16, log 23; the
words are those of its defaults D10, log 5, with shamt 0 for three registers, D12, log 10; the decoder
is log 14; the line placed as the next one is log 2, its text log 16, and one step for it D1, log 1.) -/
def Obligations.FetchedWordIsEmitted : Prop :=
  ∀ (s : State) (w : Nat) (i : Instr), RomsBuilt Config.params s → decodeTableWord 32 w = some i →
    ∃ t, step (s.withFetchWord 32 w) = .next t ∧ t.word = BitVec.ofNat 32 w ∧ t.diagValid = false ∧
      t.pipe.output = s.pipe.output ++ hexWord (BitVec.ofNat 32 w) ++ [lineFeed] ∧
      t.pipe.input = s.pipe.input

/-- For every value of the OPEN function codes, every state with the ROMs built with them and the spec's
defaults, and every instruction with a word: exec answers that word (the table's bit pattern) through
ROM reads, multiplexer and packer, with no diagnostic and nothing else changed. (The defaults are the
spec's decision D10, log 5; shamt 0 of three registers is D12, log 10; the OPEN codes are D11, log 6.) -/
def Obligations.ExecEmitsTheTableWord : Prop :=
  ∀ (f : OpenFuncts) (s : State) (i : Instr) (w : Word), RomsBuilt (Params.withOpen f) s →
    encodeWith f i = some w → WordAnswer (exec i s) s w

/-- For every mnemonic byte string, every operand text and every state, whatever the ROMs hold: the answer
by instruction (one meaning each) is the answer of the pseudocode `encode(m, t)` (R60): mfc0 first, then
the byte string's shape, its parser, the malformed word, and the packer of its format. (The malformed
word is the spec's decision D9, log 11; shamt 0 of three registers, on the pseudocode's side too, is
D12, log 10; where the text is parsed is log 13.) -/
def Obligations.EncoderFollowsThePseudocode : Prop :=
  ∀ (m t : Text) (s : State), answer { mnem := m, opnd := t } s = pseudocode m t s

/-- For every target and every state with the ROMs built, j answers the word with opcode 2 and the low 26
bits of the target, jal the same with opcode 3; no diagnostic, nothing else changed. -/
def Obligations.JumpsEmitOpcodeAndTarget : Prop :=
  ∀ (p : Params) (s : State) (o : JTarget), RomsBuilt p s →
    WordAnswer (exec (.j (.ok o)) s) s (wordJ 2 o.target) ∧
    WordAnswer (exec (.jal (.ok o)) s) s (wordJ 3 o.target)

/-- For every operand, in every state with the ROMs built: addi and beq answer the word with the given
opcode, the SECOND register in 25:21, the FIRST in 20:16, and the low 16 bits of the literal. -/
def Obligations.GivenOpcodeImmediatesEmitRtFirst : Prop :=
  ∀ (p : Params) (s : State) (o : IArith), RomsBuilt p s →
    WordAnswer (exec (.addi (.ok o)) s) s (wordI 8 o.rs o.rt o.imm) ∧
    WordAnswer (exec (.beq (.ok o)) s) s (wordI 4 o.rs o.rt o.imm)

/-- As for addi, with the opcode parameter of each mnemonic, for EVERY value of the parameters (the spec's
defaults are 9, 12, 13, 5, 10, 11, log 5). -/
def Obligations.ParameterOpcodeImmediatesEmitRtFirst : Prop :=
  ∀ (p : Params) (s : State) (o : IArith), RomsBuilt p s →
    WordAnswer (exec (.addiu (.ok o)) s) s (wordI p.opcAddiu o.rs o.rt o.imm) ∧
    WordAnswer (exec (.andi (.ok o)) s) s (wordI p.opcAndi o.rs o.rt o.imm) ∧
    WordAnswer (exec (.ori (.ok o)) s) s (wordI p.opcOri o.rs o.rt o.imm) ∧
    WordAnswer (exec (.bne (.ok o)) s) s (wordI p.opcBne o.rs o.rt o.imm) ∧
    WordAnswer (exec (.slti (.ok o)) s) s (wordI p.opcSlti o.rs o.rt o.imm) ∧
    WordAnswer (exec (.sltiu (.ok o)) s) s (wordI p.opcSltiu o.rs o.rt o.imm)

/-- For every operand: lw and sw answer the word with the base register in 25:21, the first register in
20:16, and the low 16 bits of the offset; they make no memory access (nothing but the ports changes). -/
def Obligations.MemoryFormsEmitBaseRegisterAndOffset : Prop :=
  ∀ (p : Params) (s : State) (o : IMem), RomsBuilt p s →
    WordAnswer (exec (.lw (.ok o)) s) s (wordI 35 o.rs o.rt o.imm) ∧
    WordAnswer (exec (.sw (.ok o)) s) s (wordI 43 o.rs o.rt o.imm)

/-- For every operand: lui answers the word with opcode 15, 0 in bits 25:21, the register in 20:16, and the
low 16 bits of the literal. -/
def Obligations.LuiEmitsZeroRs : Prop :=
  ∀ (p : Params) (s : State) (o : ILui), RomsBuilt p s →
    WordAnswer (exec (.lui (.ok o)) s) s (wordI 15 0 o.rt o.imm)

/-- For every operand: add and sub answer the word with opcode 0, the second register in rs, the third in
rt, the first in rd, shamt 0 (the spec's decision D12, log 10), and the given function code. -/
def Obligations.GivenCodeThreeRegisterFormsEmitTheirFields : Prop :=
  ∀ (p : Params) (s : State) (o : RThree), RomsBuilt p s →
    WordAnswer (exec (.add (.ok o)) s) s (wordR o.rs o.rt o.rd 0 32) ∧
    WordAnswer (exec (.sub (.ok o)) s) s (wordR o.rs o.rt o.rd 0 34)

/-- As for add, with the function-code parameter of each mnemonic, for EVERY value of the parameters
(defaults 33, 35, 36, 37, 42, 43, log 5; shamt 0 is D12, log 10). -/
def Obligations.ParameterCodeThreeRegisterFormsEmitTheirFields : Prop :=
  ∀ (p : Params) (s : State) (o : RThree), RomsBuilt p s →
    WordAnswer (exec (.addu (.ok o)) s) s (wordR o.rs o.rt o.rd 0 p.functAddu) ∧
    WordAnswer (exec (.subu (.ok o)) s) s (wordR o.rs o.rt o.rd 0 p.functSubu) ∧
    WordAnswer (exec (.and (.ok o)) s) s (wordR o.rs o.rt o.rd 0 p.functAnd) ∧
    WordAnswer (exec (.or (.ok o)) s) s (wordR o.rs o.rt o.rd 0 p.functOr) ∧
    WordAnswer (exec (.slt (.ok o)) s) s (wordR o.rs o.rt o.rd 0 p.functSlt) ∧
    WordAnswer (exec (.sltu (.ok o)) s) s (wordR o.rs o.rt o.rd 0 p.functSltu)

/-- As for add, with the OPEN function code of each mnemonic, for EVERY value of it in 0..63 (log 6; shamt 0
is D12, log 10). -/
def Obligations.OpenCodeThreeRegisterFormsEmitTheirFields : Prop :=
  ∀ (p : Params) (s : State) (o : RThree), RomsBuilt p s →
    WordAnswer (exec (.add8 (.ok o)) s) s (wordR o.rs o.rt o.rd 0 p.openFn.add8) ∧
    WordAnswer (exec (.sadd (.ok o)) s) s (wordR o.rs o.rt o.rd 0 p.openFn.sadd) ∧
    WordAnswer (exec (.ssub (.ok o)) s) s (wordR o.rs o.rt o.rd 0 p.openFn.ssub)

/-- For every operand: these answer the word with opcode 0, the first register in rs, the second in rt, rd
and shamt 0, and function code 24 for mult, the parameter of multu, div, divu (defaults 25, 26, 27, log
5), the OPEN code of rbit and rev (any value, log 6). -/
def Obligations.TwoRegisterFormsEmitTheirFields : Prop :=
  ∀ (p : Params) (s : State) (o : RRsRt), RomsBuilt p s →
    WordAnswer (exec (.mult (.ok o)) s) s (wordR o.rs o.rt 0 0 24) ∧
    WordAnswer (exec (.multu (.ok o)) s) s (wordR o.rs o.rt 0 0 p.functMultu) ∧
    WordAnswer (exec (.div (.ok o)) s) s (wordR o.rs o.rt 0 0 p.functDiv) ∧
    WordAnswer (exec (.divu (.ok o)) s) s (wordR o.rs o.rt 0 0 p.functDivu) ∧
    WordAnswer (exec (.rbit (.ok o)) s) s (wordR o.rs o.rt 0 0 p.openFn.rbit) ∧
    WordAnswer (exec (.rev (.ok o)) s) s (wordR o.rs o.rt 0 0 p.openFn.rev)

/-- For every operand: mfhi and mflo answer the word with the register in rd, rs = rt = shamt = 0, and their
function-code parameter (defaults 16, 18, log 5). -/
def Obligations.MoveFromHiLoEmitsRd : Prop :=
  ∀ (p : Params) (s : State) (o : RRd), RomsBuilt p s →
    WordAnswer (exec (.mfhi (.ok o)) s) s (wordR 0 0 o.rd 0 p.functMfhi) ∧
    WordAnswer (exec (.mflo (.ok o)) s) s (wordR 0 0 o.rd 0 p.functMflo)

/-- For every operand: sll and srl answer the word with rs 0, the second register in rt, the first in rd,
the low 5 bits of the shift amount in 10:6, and function code 0 or 2. -/
def Obligations.ShiftsEmitRtRdAndShamt : Prop :=
  ∀ (p : Params) (s : State) (o : RShift), RomsBuilt p s →
    WordAnswer (exec (.sll (.ok o)) s) s (wordR 0 o.rt o.rd o.shamt 0) ∧
    WordAnswer (exec (.srl (.ok o)) s) s (wordR 0 o.rt o.rd o.shamt 2)

/-- For every operand: jr answers the word with the register in rs, rd = rt = shamt = 0, and function code
8. -/
def Obligations.JrEmitsRs : Prop :=
  ∀ (p : Params) (s : State) (o : RRs), RomsBuilt p s →
    WordAnswer (exec (.jr (.ok o)) s) s (wordR o.rs 0 0 0 8)

/-- In every state and for every operand text, the empty and the malformed included, the request mfc0 is the
instruction mfc0, and exec of it answers the diagnostic MFC0_DIAG, the same for every text, and nothing
else changes; a request of any other byte string answers no diagnostic; its shape is UNIMPL and it has
no encoding. Nothing is said of the word port. (R96 says this of mfc0; that any other request answers no
diagnostic is R61 and R103, and for malformed text the spec's decision D9, log 11; that MFC0, or mfc0
with a byte more, is another byte string is D3, log 9; the diagnostic is D13, log 7.) -/
def Obligations.Mfc0GivesTheDiagnostic : Prop :=
  (∀ (s : State), DiagAnswer (exec .mfc0 s) s) ∧
  (∀ (t : Text) (s : State), answer { mnem := ascii ['m', 'f', 'c', '0'], opnd := t } s = exec .mfc0 s) ∧
  (∀ (m t : Text) (s : State), m ≠ ascii ['m', 'f', 'c', '0'] →
    ∃ u, answer { mnem := m, opnd := t } s = .next u ∧ u.diagValid = false) ∧
  classifyShape (ascii ['m', 'f', 'c', '0']) = .unimpl ∧ (∀ f : OpenFuncts, encodeWith f .mfc0 = none)

/-- For every byte string outside the vocabulary, the empty one included, and every operand text that parses
as three registers, in every state with the ROMs built: the answer is the word with opcode 0, rs, rt,
rd, shamt 0 (D12, log 10) and function code 0, without a diagnostic; where the text does not parse, a
word with opcode 0 (D9, log 11). -/
def Obligations.UnknownMnemonicEmitsTheThreeRegisterDefault : Prop :=
  ∀ (p : Params) (s : State) (m t : Text), RomsBuilt p s → (∀ k : Mnemonic, k.text ≠ m) →
    (∀ o, parseRThree t = .ok o →
      WordAnswer (answer { mnem := m, opnd := t } s) s (wordR o.rs o.rt o.rd 0 0)) ∧
    (parseRThree t = .malformed → MalformedAnswer (answer { mnem := m, opnd := t } s) s 0)

/-- For every instruction whose operand text was malformed, in every state with the ROMs built: exec answers
a word whose bits 31:26 are the mnemonic's opcode, no diagnostic, nothing else changed. Nothing is said
of bits 25:0, a free value. (The spec's decision D9, log 11.) The empty text is malformed for every
mnemonic but mfc0. -/
def Obligations.MalformedTextKeepsTheOpcode : Prop :=
  (∀ (p : Params) (s : State) (i : Instr), RomsBuilt p s → i.parsed = false →
    MalformedAnswer (exec i s) s (BitVec.ofNat 6 (opcodeOf p i.mnemonic))) ∧
  (∀ m : Mnemonic, m ≠ .mfc0 → (m.instr []).parsed = false)

/-- Two states that agree on the two ROMs, and may differ in everything else (ports, host, counter of
draws), give a request the same response: the same kind, the same opcode field of a word, and for well-
formed text the same word or diagnostic. Of malformed text's bits 25:0 nothing is said. (R17 says that
the response to a malformed request is not determined; that it keeps its kind and its opcode field is
the spec's decision D9, log 11.) -/
def Obligations.WellFormedResponseDependsOnTheRequestAlone : Prop :=
  ∀ (r : Request) (s t : State), s.opcRom = t.opcRom → s.fnRom = t.fnRom → SameResponse r s t

/-- Every request, in every state, answers a next state, with a diagnostic exactly when the mnemonic is
mfc0, and then MFC0_DIAG; it changes neither ROMs nor host. Every next request, if it is well-formed or
mfc0, gets the response it would have got before; if its operand text is malformed, a response of the
same kind with the same opcode field, and nothing is said of bits 25:0 (R104 leaves them open). (That
malformed text gives a word, with no diagnostic and with that field, is the spec's decision D9, log 11;
that only the exact bytes mfc0 are that mnemonic is D3, log 9; MFC0_DIAG is D13, log 7.) -/
def Obligations.EveryRequestHasOneResponseOfTwoKinds : Prop :=
  ∀ (r : Request) (s : State), ∃ t, answer r s = .next t ∧
    (t.diagValid = true ↔ r.mnem = ascii ['m', 'f', 'c', '0']) ∧
    (t.diagValid = true → t.diagText = Config.mfc0Diag) ∧ Unchanged s t ∧
    ∀ r' : Request, SameResponse r' s t

/-- For every opcode, field value and function code: bits 31:26, 25:21, 20:16, 15:11, 10:6 and 5:0 of packR
are the low 6, 5, 5, 5, 5 and 6 bits of its arguments; the function code is masked to 6 bits, whatever
its size; and every R-format mnemonic reads opcode 0 and a function code in 0..63 from built ROMs. (For
the OPEN codes and mfc0's entry the bound 0..63 is the spec's decision D11, log 6; that a function code
is its own mask rests on it, C3.) -/
def Obligations.RFormatPackerFillsItsFields : Prop :=
  (∀ (opc fn : Nat) (f : RFields),
    (packR opc f fn).extractLsb' 26 6 = BitVec.ofNat 6 opc ∧
    (packR opc f fn).extractLsb' 21 5 = low 5 f.rs ∧ (packR opc f fn).extractLsb' 16 5 = low 5 f.rt ∧
    (packR opc f fn).extractLsb' 11 5 = low 5 f.rd ∧ (packR opc f fn).extractLsb' 6 5 = low 5 f.shamt ∧
    (packR opc f fn).extractLsb' 0 6 = BitVec.ofNat 6 fn) ∧
  (∀ (p : Params) (s : State) (m : Mnemonic), RomsBuilt p s → formatOf m = .R →
    s.opc m.text = 0 ∧ s.funct m.text < 64)

/-- For every opcode and field value: bits 31:26, 25:21, 20:16 and 15:0 of packI are the low 6, 5, 5 and 16
bits of its arguments. -/
def Obligations.IFormatPackerFillsItsFields : Prop :=
  ∀ (opc : Nat) (f : IFields),
    (packI opc f).extractLsb' 26 6 = BitVec.ofNat 6 opc ∧ (packI opc f).extractLsb' 21 5 = low 5 f.rs ∧
    (packI opc f).extractLsb' 16 5 = low 5 f.rt ∧ (packI opc f).extractLsb' 0 16 = low 16 f.imm

/-- For every opcode and target: bits 31:26 and 25:0 of packJ are the low 6 and 26 bits of its arguments. -/
def Obligations.JFormatPackerFillsItsFields : Prop :=
  ∀ (opc : Nat) (f : JFields),
    (packJ opc f).extractLsb' 26 6 = BitVec.ofNat 6 opc ∧ (packJ opc f).extractLsb' 0 26 = low 26 f.target

/-- `low_N(v)` is the value in 0..2^N-1 congruent to v modulo 2^N, for negative v too. Two instructions
whose operands agree modulo 2^N in every field (N = 5 for registers and shift amounts, 16 for
immediates, 26 for targets) have the same answer, in every state; every instruction is answered,
whatever its operands; a word's fields are those of the truncated operands; and each packer's word is
the truncated values side by side, so that no field carries into its neighbour. -/
def Obligations.CongruentLiteralsGiveTheSameWord : Prop :=
  (∀ (n : Nat) (v : Int), ((low n v).toNat : Int) = v % (2 ^ n : Nat)) ∧
  (∀ (i k : Instr) (s : State), i.truncated = k.truncated → exec i s = exec k s) ∧
  (∀ (i : Instr) (s : State), ∃ t, exec i s = .next t) ∧
  (∀ (f : OpenFuncts) (i : Instr), encodeWith f i.truncated = encodeWith f i) ∧
  (∀ (opc : Nat) (f : JFields), packJ opc f = low 6 opc ++ low 26 f.target) ∧
  (∀ (opc : Nat) (f : IFields), packI opc f = low 6 opc ++ low 5 f.rs ++ low 5 f.rt ++ low 16 f.imm) ∧
  (∀ (opc fn : Nat) (f : RFields), packR opc f fn =
    low 6 opc ++ low 5 f.rs ++ low 5 f.rt ++ low 5 f.rd ++ low 5 f.shamt ++ low 6 fn)

/-- For every byte string: its format is J exactly when it is one of the two J mnemonics, I exactly when it
is one of the eleven I mnemonics, and R exactly otherwise; the 36 byte strings of the vocabulary differ,
and matching is exact (the spec's decision D3, log 9). -/
def Obligations.FormatIsAPartitionOfTheMnemonics : Prop :=
  (∀ m : Text, (classifyFormat m = .J ↔ m ∈ [ascii ['j'], ascii ['j', 'a', 'l']]) ∧
    (classifyFormat m = .I ↔ m ∈ [ascii ['a', 'd', 'd', 'i'], ascii ['a', 'd', 'd', 'i', 'u'],
      ascii ['a', 'n', 'd', 'i'], ascii ['o', 'r', 'i'], ascii ['l', 'w'], ascii ['s', 'w'],
      ascii ['l', 'u', 'i'], ascii ['b', 'e', 'q'], ascii ['b', 'n', 'e'], ascii ['s', 'l', 't', 'i'],
      ascii ['s', 'l', 't', 'i', 'u']]) ∧
    (classifyFormat m = .R ↔ classifyFormat m ≠ .J ∧ classifyFormat m ≠ .I)) ∧
  (Mnemonic.all.map Mnemonic.text).Nodup ∧ Mnemonic.all.length = 36 ∧
  (∀ (m : Text) (k : Mnemonic), lookupMnemonic m = some k ↔ k.text = m)

/-- For every byte string: its shape is R_THREE outside the vocabulary; and inside it the shape is J_TARGET
for 2 mnemonics, I_MEM for 2, I_LUI for 1, I_ARITH for 8, R_RS for 1, R_RD for 2, R_RSRT for 6, R_SHIFT
for 2, R_THREE for 11 and UNIMPL for mfc0 alone. -/
def Obligations.ShapeOfEveryByteString : Prop :=
  (∀ m : Text, (∀ k : Mnemonic, k.text ≠ m) → classifyShape m = .rThree ∧ classifyFormat m = .R) ∧
  (∀ m : Mnemonic, classifyShape m.text =
    if m ∈ [.j, .jal] then .jTarget else if m ∈ [.lw, .sw] then .iMem else if m = .lui then .iLui
    else if m ∈ [.addi, .addiu, .andi, .ori, .beq, .bne, .slti, .sltiu] then .iArith
    else if m = .jr then .rRs else if m ∈ [.mfhi, .mflo] then .rRd
    else if m ∈ [.mult, .multu, .div, .divu, .rbit, .rev] then .rRsRt
    else if m ∈ [.sll, .srl] then .rShift else if m = .mfc0 then .unimpl else .rThree)

/-- A lookup of a byte string that a table does not list gives 0, whatever the table; one that it lists
gives the first entry of it. With the ROMs built, a byte string outside the vocabulary reads 0 in both,
and a J- or I-format mnemonic reads 0 in the function-code ROM. (The default 0 is R43; that a table with
two entries for one byte string gives the first is the model's choice, log 24: R43 knows one.) -/
def Obligations.MissingEntryReadsZero : Prop :=
  (∀ (m : Text) (rom : Rom), (∀ e ∈ rom, e.1 ≠ m) → Rom.read m rom = 0) ∧
  (∀ (m : Text) (v : Nat) (a b : Rom), (∀ e ∈ a, e.1 ≠ m) → Rom.read m (a ++ (m, v) :: b) = v) ∧
  (∀ (p : Params) (s : State) (m : Text), RomsBuilt p s →
    ((∀ k : Mnemonic, k.text ≠ m) → s.opc m = 0 ∧ s.funct m = 0) ∧
    (classifyFormat m ≠ .R → s.funct m = 0))

/-- With the ROMs built for any parameters: the seven opcodes the source gives, the six parameters, and 0
for each of the 23 R-format mnemonics, mfc0 included. (The parameters' defaults are the spec's, log 5.) -/
def Obligations.OpcodeRomReadsItsTable : Prop :=
  ∀ (p : Params) (s : State), RomsBuilt p s →
    s.opc (ascii ['j']) = 2 ∧ s.opc (ascii ['j', 'a', 'l']) = 3 ∧ s.opc (ascii ['a', 'd', 'd', 'i']) = 8 ∧
    s.opc (ascii ['l', 'w']) = 35 ∧ s.opc (ascii ['s', 'w']) = 43 ∧ s.opc (ascii ['l', 'u', 'i']) = 15 ∧
    s.opc (ascii ['b', 'e', 'q']) = 4 ∧ s.opc (ascii ['a', 'd', 'd', 'i', 'u']) = p.opcAddiu.toNat ∧
    s.opc (ascii ['a', 'n', 'd', 'i']) = p.opcAndi.toNat ∧ s.opc (ascii ['o', 'r', 'i']) = p.opcOri.toNat ∧
    s.opc (ascii ['b', 'n', 'e']) = p.opcBne.toNat ∧
    s.opc (ascii ['s', 'l', 't', 'i']) = p.opcSlti.toNat ∧
    s.opc (ascii ['s', 'l', 't', 'i', 'u']) = p.opcSltiu.toNat ∧
    ∀ m ∈ Mnemonic.allR, s.opc m.text = 0

/-- With the ROMs built for any parameters: the six function codes the source gives, the eleven parameters
and the five OPEN ones (any value in 0..63). (The parameters' defaults are the spec's, log 5; the OPEN
ones log 6.) -/
def Obligations.FunctionCodeRomReadsItsTable : Prop :=
  ∀ (p : Params) (s : State), RomsBuilt p s →
    s.funct (ascii ['a', 'd', 'd']) = 32 ∧ s.funct (ascii ['s', 'u', 'b']) = 34 ∧
    s.funct (ascii ['m', 'u', 'l', 't']) = 24 ∧ s.funct (ascii ['s', 'l', 'l']) = 0 ∧
    s.funct (ascii ['s', 'r', 'l']) = 2 ∧ s.funct (ascii ['j', 'r']) = 8 ∧
    s.funct (ascii ['a', 'd', 'd', 'u']) = p.functAddu.toNat ∧
    s.funct (ascii ['s', 'u', 'b', 'u']) = p.functSubu.toNat ∧
    s.funct (ascii ['m', 'u', 'l', 't', 'u']) = p.functMultu.toNat ∧
    s.funct (ascii ['d', 'i', 'v']) = p.functDiv.toNat ∧
    s.funct (ascii ['d', 'i', 'v', 'u']) = p.functDivu.toNat ∧
    s.funct (ascii ['m', 'f', 'h', 'i']) = p.functMfhi.toNat ∧
    s.funct (ascii ['m', 'f', 'l', 'o']) = p.functMflo.toNat ∧
    s.funct (ascii ['a', 'n', 'd']) = p.functAnd.toNat ∧ s.funct (ascii ['o', 'r']) = p.functOr.toNat ∧
    s.funct (ascii ['s', 'l', 't']) = p.functSlt.toNat ∧
    s.funct (ascii ['s', 'l', 't', 'u']) = p.functSltu.toNat ∧
    s.funct (ascii ['r', 'b', 'i', 't']) = p.openFn.rbit.toNat ∧
    s.funct (ascii ['r', 'e', 'v']) = p.openFn.rev.toNat ∧
    s.funct (ascii ['a', 'd', 'd', '8']) = p.openFn.add8.toNat ∧
    s.funct (ascii ['s', 'a', 'd', 'd']) = p.openFn.sadd.toNat ∧
    s.funct (ascii ['s', 's', 'u', 'b']) = p.openFn.ssub.toNat

/-- For every string of decimal digits (leading zeros included) before a byte that is no digit: read alone
or after +, it gives its value if that is at most 2^31-1; after -, the negated value if that is at least
-2^31; else the text is malformed. Whitespace before any text changes nothing. A sign, + or -, followed
by no digit (end of text, whitespace, a second sign or any other byte) is malformed, whatever comes
later; so is a text that begins with no digit, whitespace or sign, the empty one included, and every
text without a digit. (The spec's decisions D4 to D6, log 8 and 9.) -/
def Obligations.LiteralIsReadInTheSigned32BitRange : Prop :=
  (∀ (d : Byte) (ds x : Text), isDigit d = true → (∀ c ∈ ds, isDigit c = true) →
    (∀ c, x.head? = some c → isDigit c = false) →
    (readInt (d :: ds ++ x) = if decimalValue (d :: ds) < 2 ^ 31
      then .ok ((decimalValue (d :: ds) : Int), x) else .malformed) ∧
    (readInt (byteOf '+' :: (d :: ds ++ x)) = readInt (d :: ds ++ x)) ∧
    (readInt (byteOf '-' :: (d :: ds ++ x)) = if decimalValue (d :: ds) ≤ 2 ^ 31
      then .ok (-(decimalValue (d :: ds) : Int), x) else .malformed)) ∧
  (∀ ws y : Text, (∀ c ∈ ws, isSpace c = true) → readInt (ws ++ y) = readInt y) ∧
  (∀ (sign : Byte) (y : Text), sign ∈ [byteOf '+', byteOf '-'] →
    (∀ c, y.head? = some c → isDigit c = false) → readInt (sign :: y) = .malformed) ∧
  (∀ (sign c : Byte) (y : Text), sign ∈ [byteOf '+', byteOf '-'] → isSpace c = true →
    readInt (sign :: c :: y) = .malformed) ∧
  (∀ y : Text, (∀ c, y.head? = some c →
    isDigit c = false ∧ isSpace c = false ∧ c ∉ [byteOf '+', byteOf '-']) → readInt y = .malformed) ∧
  (∀ y : Text, (∀ c ∈ y, isDigit c = false) → readInt y = .malformed)

/-- For every mnemonic and well-formed operand text, any bytes after it that do not begin with a digit leave
the instruction as it is (a digit would go on with a last literal); the same of the three registers of
an unknown mnemonic. For lw and sw, whose last token is the closing parenthesis, and for mfc0, whose
text is not read, any bytes at all, a digit first included. (The spec's decision D8, log 9.) -/
def Obligations.TrailingTextIsIgnored : Prop :=
  (∀ (m : Mnemonic) (t x : Text), (m.instr t).parsed = true → (∀ c, x.head? = some c → isDigit c = false) →
    m.instr (t ++ x) = m.instr t) ∧
  (∀ (t x : Text) (o : RThree), parseRThree t = .ok o → (∀ c, x.head? = some c → isDigit c = false) →
    parseRThree (t ++ x) = .ok o) ∧
  (∀ (m : Mnemonic) (t x : Text), m ∈ [.lw, .sw, .mfc0] → (m.instr t).parsed = true →
    m.instr (t ++ x) = m.instr t)

/-- For every mnemonic, operand text (malformed included) and whitespace byte before it, the instruction is
the same. (The spec's decision D4, log 9.) -/
def Obligations.LeadingWhitespaceIsIgnored : Prop :=
  ∀ (m : Mnemonic) (c : Byte) (t : Text), c ∈ [0x20#8, 0x09#8, 0x0A#8, 0x0B#8, 0x0C#8, 0x0D#8] →
    m.instr (c :: t) = m.instr t

/-- In every state with the ROMs built: an unknown mnemonic whose rs operand is 0 modulo 32 answers the word
of sll with shift amount 0 and the same rd and rt; and two R-format mnemonics of one shape whose
function codes are equal answer the same word for the same operands (shown for rbit and mult, and for
add8 and add). (Shift amount 0 of three registers, and so of an unknown mnemonic, is the spec's decision
D12, log 10.) -/
def Obligations.DistinctRequestsCanGiveOneWord : Prop :=
  ∀ (p : Params) (s : State), RomsBuilt p s →
    (∀ (m : Text) (o : RThree), (∀ k : Mnemonic, k.text ≠ m) → o.rs % 32 = 0 →
      ∃ w, WordAnswer (execUnknown m (.ok o) s) s w ∧
        WordAnswer (exec (.sll (.ok { rd := o.rd, rt := o.rt, shamt := 0 })) s) s w) ∧
    (∀ o : RRsRt, p.openFn.rbit = 24 → exec (.rbit (.ok o)) s = exec (.mult (.ok o)) s) ∧
    (∀ o : RThree, p.openFn.add8 = 32 → exec (.add8 (.ok o)) s = exec (.add (.ok o)) s)

/-- For every text without LF before an LF, that text is the next line and what follows the LF comes after
it; a last text without LF is a line if it is not empty; no text is left, no line. A line splits at its
first byte 0x20, and a line without one is all mnemonic. (The spec's decision D14, log 23.) -/
def Obligations.HostReadsLinesAndSplitsAtTheFirstSpace : Prop :=
  (∀ l rest : Text, lineFeed ∉ l → nextLine (l ++ lineFeed :: rest) = some (l, rest)) ∧
  (∀ l : Text, lineFeed ∉ l → l ≠ [] → nextLine l = some (l, [])) ∧ nextLine [] = none ∧
  (∀ a b : Text, space ∉ a → splitLine (a ++ space :: b) = { mnem := a, opnd := b } ∧
    splitLine a = { mnem := a, opnd := [] })

/-- For every word: its text has exactly 8 bytes, each a digit 0-9 or a-f, and read most significant digit
first (D16) it has the word's value. -/
def Obligations.HexLineIsEightDigitsOfTheWord : Prop :=
  ∀ w : Word, (hexWord w).length = 8 ∧ (∀ c ∈ hexWord w, isHexDigit c = true) ∧ hexValue (hexWord w) = w.toNat

/-- From the phase of opening the input: if both files can be opened, two steps lead to presenting lines,
holding both, with the ROMs, the ports, the input and the output as they were. If the input cannot be
opened, one step stops the run; if the output cannot, the second step stops it and the input is
released; with a status that is not 0, a report (log 19), no request (the ports are as they were), and a
further step is the fault of that error. (The statement counts steps: that opening each file is a step
of its own is the model's choice, log 1, beside the spec's decision D1; whether a file opens is log 18;
the further step's fault is log 19 and 20.) -/
def Obligations.HostStartsInOrder : Prop :=
  ∀ s : State, s.pipe.phase = .openInput →
    (s.pipe.inputOpens = true → s.pipe.outputOpens = true → ∃ t u, step s = .next t ∧ step t = .next u ∧
      u = { s with pipe := { s.pipe with phase := .lines, inputHeld := true, outputHeld := true } }) ∧
    (s.pipe.inputOpens = false → ∃ t n, step s = .next t ∧
      t = { s with pipe := { s.pipe with
        phase := .failed .inputNotOpened, inputHeld := false, outputHeld := false
        reports := s.pipe.reports ++ [.inputNotOpened], exitStatus := some (n + 1) } } ∧
      step t = .fault (.fatalIo .inputNotOpened)) ∧
    (s.pipe.inputOpens = true → s.pipe.outputOpens = false → ∃ t u n, step s = .next t ∧
      t.pipe.inputHeld = true ∧ step t = .next u ∧
      u = { s with pipe := { s.pipe with
        phase := .failed .outputNotOpened, inputHeld := false, outputHeld := false
        reports := s.pipe.reports ++ [.outputNotOpened], exitStatus := some (n + 1) } } ∧
      step u = .fault (.fatalIo .outputNotOpened))

/-- While lines are presented: with no input left, the step ends the run, releases the files and changes
nothing else, and a further step is the fault runEnded (that the end is a step of its own is log 20);
with input left, the step answers a next state that still presents lines (a request, once presented,
completes). The ended phase is reached only from presenting lines with no input left, and the failed
phase only from opening a file. (Steps are counted as in log 1.) -/
def Obligations.RunEndsOnlyAfterTheLastLine : Prop :=
  (∀ s : State, s.pipe.phase = .lines → s.pipe.input = [] → ∃ t, step s = .next t ∧
      t = { s with pipe := { s.pipe with phase := .ended, inputHeld := false, outputHeld := false } } ∧
      step t = .fault .runEnded) ∧
  (∀ s : State, s.pipe.phase = .lines → s.pipe.input ≠ [] → ∃ t, step s = .next t ∧ t.pipe.phase = .lines ∧
      t.pipe.input.length < s.pipe.input.length) ∧
  (∀ s t : State, step s = .next t →
    (t.pipe.phase = .ended → s.pipe.phase = .lines ∧ s.pipe.input = []) ∧
    (∀ e, t.pipe.phase = .failed e → s.pipe.phase = .openInput ∨ s.pipe.phase = .openOutput))

/-- From every state that presents lines, with whole lines in the output: as many steps as the input has
lines read all of it, whatever its bytes (malformed, unknown and blank lines and mfc0 included), and the
output has exactly that many lines more, after the ones it had. (One step for each line is D1, log 1;
what a line is, in and out, is the spec's decisions D14 and D15, log 23.) -/
def Obligations.RunWritesOneLinePerInputLine : Prop :=
  ∀ s : State, s.pipe.phase = .lines → wholeLines s.pipe.output = true →
    ∃ t : State, Host.Core.run Sys2Proof.core (linesOf s.pipe.input).length s = .next t ∧
      t.pipe.input = [] ∧ t.pipe.phase = .lines ∧ wholeLines t.pipe.output = true ∧
      (linesOf t.pipe.output).length = (linesOf s.pipe.output).length + (linesOf s.pipe.input).length ∧
      s.pipe.output <+: t.pipe.output

/-- From every state that presents lines with the ROMs built: if every line of the input is well-formed (or
mfc0, or unknown with three registers), the steps that read it append to the output exactly the lines
the encodings determine, one per line and in input order, a function of the input alone, whatever the
ports and the counter of draws. (Those lines rest on the spec's decisions: its default codes D10, log 5,
shamt 0 for three registers D12, log 10, line ends and digit order D14 to D16, log 23; one step for each
line is D1, log 1.) -/
def Obligations.RunOutputIsDeterminedByItsInput : Prop :=
  ∀ s : State, RomsBuilt Config.params s → s.pipe.phase = .lines →
    (∀ l ∈ linesOf s.pipe.input, (determinedResponse (splitLine l)).isSome = true) →
    ∃ t : State, Host.Core.run Sys2Proof.core (linesOf s.pipe.input).length s = .next t ∧
      t.pipe.input = [] ∧ t.pipe.output = s.pipe.output ++ determinedOutput (linesOf s.pipe.input)

/-- For every value of the OPEN codes, the words 0x08000400, 0x8d280004, 0x3c021000, 0x00430820 and
0x00052080 decode to j 1024, lw $8, 4($9), lui $2, 4096, add $1, $2, $3 and sll $4, $5, 2. The word
0x00430800, three registers with function code 0, decodes to nothing for every choice of the codes in
which those of add8, sadd and ssub are not 0 (the rows of rbit and rev need rd 0), and to the first of
these three whose code is 0. (The decoder and which of two names a word gets are the model's choice, log
14; bits 10:6 of the words with three registers are 0 by the spec's decision D12, log 10; the OPEN codes
are D11, log 6; the codes behind "etc." are its defaults, D10, log 5: that no row tried before gives one
of these words, and that 0x00430800 is no word of addu or another of them, rests on those.) -/
def Obligations.SampleWordsDecode : Prop :=
  ∀ f : OpenFuncts,
    decodeWordWith f 0x08000400#32 = .instr (.j (.ok { target := 1024 })) ∧
    decodeWordWith f 0x8d280004#32 = .instr (.lw (.ok { rt := 8, imm := 4, rs := 9 })) ∧
    decodeWordWith f 0x3c021000#32 = .instr (.lui (.ok { rt := 2, imm := 4096 })) ∧
    decodeWordWith f 0x00430820#32 = .instr (.add (.ok { rd := 1, rs := 2, rt := 3 })) ∧
    decodeWordWith f 0x00052080#32 = .instr (.sll (.ok { rd := 4, rt := 5, shamt := 2 })) ∧
    (f.add8 ≠ 0 → f.sadd ≠ 0 → f.ssub ≠ 0 → decodeWordWith f 0x00430800#32 = .rejected .wordNotInTable) ∧
    (f.add8 = 0 → decodeWordWith f 0x00430800#32 = .instr (.add8 (.ok { rd := 1, rs := 2, rt := 3 }))) ∧
    (f.add8 ≠ 0 → f.sadd = 0 → decodeWordWith f 0x00430800#32 = .instr (.sadd (.ok { rd := 1, rs := 2, rt := 3 }))) ∧
    (f.add8 ≠ 0 → f.sadd ≠ 0 → f.ssub = 0 →
      decodeWordWith f 0x00430800#32 = .instr (.ssub (.ok { rd := 1, rs := 2, rt := 3 })))

/-- For each of the delimiters $ , ( ) and any whitespace before it, the empty one included: the delimiter
is read and the text after it is next; the end of the text, or any byte that is neither whitespace nor
the delimiter, is malformed there. A register is whitespace, the byte $ and a literal: with the $ it
reads as the literal after it does; the end of the text, any other byte in place of the $, and after the
$ and any whitespace the end of the text or a byte that begins no literal (so a symbolic name) are
malformed. (R46, R47; the spec's decisions D4, D6 and D7, log 9.) -/
def Obligations.DelimitersAndRegistersAreReadExactly : Prop :=
  (∀ (c : Char) (ws : Text), c ∈ ['$', ',', '(', ')'] → (∀ b ∈ ws, isSpace b = true) →
    (∀ y : Text, readLit (ws ++ byteOf c :: y) c = .ok y) ∧ readLit ws c = .malformed ∧
    (∀ (d : Byte) (y : Text), isSpace d = false → d ≠ byteOf c → readLit (ws ++ d :: y) c = .malformed)) ∧
  (∀ ws : Text, (∀ b ∈ ws, isSpace b = true) →
    (∀ y : Text, readReg (ws ++ byteOf '$' :: y) = readInt y) ∧ readReg ws = .malformed ∧
    (∀ (d : Byte) (y : Text), isSpace d = false → d ≠ byteOf '$' → readReg (ws ++ d :: y) = .malformed) ∧
    (∀ gap : Text, (∀ b ∈ gap, isSpace b = true) →
      readReg (ws ++ byteOf '$' :: gap) = .malformed ∧
      (∀ (d : Byte) (y : Text), isDigit d = false → isSpace d = false → d ∉ [byteOf '+', byteOf '-'] →
        readReg (ws ++ byteOf '$' :: (gap ++ d :: y)) = .malformed)))

/-- For each of the nine shapes and every operand text: the parser gives operands exactly when the shape's
tokens (registers, literals and delimiters of R49 to R57, the closing parenthesis of I_MEM included) are
read in their order, each on the text that the one before it left, with those values; so one token that
is malformed, a wrong delimiter among them, makes the text malformed. (R48 to R57; that a delimiter is
exact and the closing parenthesis required is the spec's decision D7, and that what the last token
leaves is ignored is D8, log 9.) -/
def Obligations.ShapesReadTheirTokensInOrder : Prop :=
  (∀ (t : Text) (o : JTarget), parseJTarget t = .ok o ↔ ∃ a, readInt t = .ok (o.target, a)) ∧
  (∀ (t : Text) (o : IMem), parseIMem t = .ok o ↔ ∃ a b c d e f,
    readReg t = .ok (o.rt, a) ∧ readLit a ',' = .ok b ∧ readInt b = .ok (o.imm, c) ∧
    readLit c '(' = .ok d ∧ readReg d = .ok (o.rs, e) ∧ readLit e ')' = .ok f) ∧
  (∀ (t : Text) (o : ILui), parseILui t = .ok o ↔ ∃ a b c,
    readReg t = .ok (o.rt, a) ∧ readLit a ',' = .ok b ∧ readInt b = .ok (o.imm, c)) ∧
  (∀ (t : Text) (o : IArith), parseIArith t = .ok o ↔ ∃ a b c d e,
    readReg t = .ok (o.rt, a) ∧ readLit a ',' = .ok b ∧ readReg b = .ok (o.rs, c) ∧
    readLit c ',' = .ok d ∧ readInt d = .ok (o.imm, e)) ∧
  (∀ (t : Text) (o : RRs), parseRRs t = .ok o ↔ ∃ a, readReg t = .ok (o.rs, a)) ∧
  (∀ (t : Text) (o : RRd), parseRRd t = .ok o ↔ ∃ a, readReg t = .ok (o.rd, a)) ∧
  (∀ (t : Text) (o : RRsRt), parseRRsRt t = .ok o ↔ ∃ a b c,
    readReg t = .ok (o.rs, a) ∧ readLit a ',' = .ok b ∧ readReg b = .ok (o.rt, c)) ∧
  (∀ (t : Text) (o : RShift), parseRShift t = .ok o ↔ ∃ a b c d e,
    readReg t = .ok (o.rd, a) ∧ readLit a ',' = .ok b ∧ readReg b = .ok (o.rt, c) ∧
    readLit c ',' = .ok d ∧ readInt d = .ok (o.shamt, e)) ∧
  (∀ (t : Text) (o : RThree), parseRThree t = .ok o ↔ ∃ a b c d e,
    readReg t = .ok (o.rd, a) ∧ readLit a ',' = .ok b ∧ readReg b = .ok (o.rs, c) ∧
    readLit c ',' = .ok d ∧ readReg d = .ok (o.rt, e))
end

