-- ==== Sys2Proof/Laws/Bits.lean ====
section
/-! SUPPORT. The packers' words, field by field: the shift-and-or form of the packers is the
concatenation of the fields. -/

namespace Sys2Proof.Machine

theorem low_natCast_toNat {n : Nat} (v : BitVec n) : low n (v.toNat : Int) = v := by
  simp [low]

theorem low_kept (n : Nat) (v : Int) : low n (kept n v) = low n v := by
  show BitVec.ofInt n ((BitVec.ofInt n v).toNat : Int) = BitVec.ofInt n v
  rw [BitVec.ofInt_natCast, BitVec.ofNat_toNat, BitVec.setWidth_eq]

/-- The operand in a field has the field's bits. -/
theorem low_fieldOf (w : Word) (lo len : Nat) : low len (fieldOf w lo len) = w.extractLsb' lo len :=
  low_natCast_toNat _

/-- Two neighbouring fields are one field, their concatenation. -/
theorem place_append {m n p q : Nat} (x : BitVec m) (y : BitVec n) (h : p = q + n) :
    place x p ||| place y q = place (x ++ y) q := by
  subst h
  apply BitVec.eq_of_getLsbD_eq
  intro i hi
  by_cases h1 : i < q
  · have : i < q + n := by omega
    simp [place, *]
  · by_cases h2 : i < q + n
    · have : i - q < n := by omega
      simp [place, BitVec.getLsbD_append, *]
    · have h3 : ¬ i - q < n := by omega
      have h4 : n ≤ i - q := by omega
      have h5 : y.getLsbD (i - q) = false := BitVec.getLsbD_of_ge _ _ h4
      simp [place, BitVec.getLsbD_append, Nat.sub_sub, *]

theorem place_zero (x : Word) : place x 0 = x := by simp [place]

theorem packJ_eq_wordJ (opc : Nat) (f : JFields) : packJ opc f = wordJ (low 6 opc) f.target := by
  rw [packJ, place_append]
  · exact place_zero _
  all_goals rfl

theorem packI_eq_wordI (opc : Nat) (f : IFields) : packI opc f = wordI (low 6 opc) f.rs f.rt f.imm := by
  rw [packI, place_append, place_append, place_append]
  · exact place_zero _
  all_goals rfl

theorem packR_eq (opc : Nat) (f : RFields) (fn : Nat) :
    packR opc f fn =
      low 6 opc ++ low 5 f.rs ++ low 5 f.rt ++ low 5 f.rd ++ low 5 f.shamt ++ low 6 fn := by
  rw [packR, place_append, place_append, place_append, place_append,
    place_append]
  · exact place_zero _
  all_goals rfl

theorem packR_eq_wordR (opc : Nat) (f : RFields) (fn : Nat) (h : low 6 (opc : Int) = 0) :
    packR opc f fn = wordR f.rs f.rt f.rd f.shamt (low 6 fn) := by
  rw [packR_eq, h]; rfl

theorem packMalformed_eq (opc : Nat) (b : BitVec 26) : packMalformed opc b = low 6 opc ++ b := by
  rw [packMalformed, place_append]
  · exact place_zero _
  all_goals rfl

end Sys2Proof.Machine
end

