-- ==== Sys2Proof/Laws/State.lean ====
section
/-! SUPPORT. One lemma per field and update of the state. -/

namespace Sys2Proof.Machine

variable (s : State) (w : Word) (d t : Text) (e : FatalIo)

@[simp] theorem emitWord_opcRom : (s.emitWord w).opcRom = s.opcRom := rfl
@[simp] theorem emitWord_fnRom : (s.emitWord w).fnRom = s.fnRom := rfl
@[simp] theorem emitWord_word : (s.emitWord w).word = w := rfl
@[simp] theorem emitWord_diagValid : (s.emitWord w).diagValid = false := rfl
@[simp] theorem emitWord_diagText : (s.emitWord w).diagText = Config.freeDiagText s.draws := rfl
@[simp] theorem emitWord_pipe : (s.emitWord w).pipe = s.pipe := rfl
@[simp] theorem emitWord_draws : (s.emitWord w).draws = s.draws + 1 := rfl

@[simp] theorem emitDiag_opcRom : (s.emitDiag d).opcRom = s.opcRom := rfl
@[simp] theorem emitDiag_fnRom : (s.emitDiag d).fnRom = s.fnRom := rfl
@[simp] theorem emitDiag_word : (s.emitDiag d).word = Config.freeWord s.draws := rfl
@[simp] theorem emitDiag_diagValid : (s.emitDiag d).diagValid = true := rfl
@[simp] theorem emitDiag_diagText : (s.emitDiag d).diagText = d := rfl
@[simp] theorem emitDiag_pipe : (s.emitDiag d).pipe = s.pipe := rfl
@[simp] theorem emitDiag_draws : (s.emitDiag d).draws = s.draws + 1 := rfl

@[simp] theorem withInput_opcRom : (s.withInput t).opcRom = s.opcRom := rfl
@[simp] theorem withInput_fnRom : (s.withInput t).fnRom = s.fnRom := rfl
@[simp] theorem withInput_word : (s.withInput t).word = s.word := rfl
@[simp] theorem withInput_diagValid : (s.withInput t).diagValid = s.diagValid := rfl
@[simp] theorem withInput_diagText : (s.withInput t).diagText = s.diagText := rfl
@[simp] theorem withInput_pipe : (s.withInput t).pipe = { s.pipe with input := t } := rfl
@[simp] theorem withInput_draws : (s.withInput t).draws = s.draws := rfl

@[simp] theorem withText_opcRom : (s.withText t).opcRom = s.opcRom := rfl
@[simp] theorem withText_fnRom : (s.withText t).fnRom = s.fnRom := rfl
@[simp] theorem withText_word : (s.withText t).word = s.word := rfl
@[simp] theorem withText_diagValid : (s.withText t).diagValid = s.diagValid := rfl
@[simp] theorem withText_diagText : (s.withText t).diagText = s.diagText := rfl
@[simp] theorem withText_pipe : (s.withText t).pipe =
    { s.pipe with phase := .lines, inputHeld := true, outputHeld := true, input := t ++ s.pipe.input } := rfl
@[simp] theorem withText_draws : (s.withText t).draws = s.draws := rfl

@[simp] theorem writeLine_opcRom : (s.writeLine).opcRom = s.opcRom := rfl
@[simp] theorem writeLine_fnRom : (s.writeLine).fnRom = s.fnRom := rfl
@[simp] theorem writeLine_word : (s.writeLine).word = s.word := rfl
@[simp] theorem writeLine_diagValid : (s.writeLine).diagValid = s.diagValid := rfl
@[simp] theorem writeLine_diagText : (s.writeLine).diagText = s.diagText := rfl
@[simp] theorem writeLine_pipe : (s.writeLine).pipe =
    { s.pipe with output := s.pipe.output ++ s.response.text ++ [lineFeed] } := rfl
@[simp] theorem writeLine_draws : (s.writeLine).draws = s.draws := rfl

@[simp] theorem endRun_opcRom : (s.endRun).opcRom = s.opcRom := rfl
@[simp] theorem endRun_fnRom : (s.endRun).fnRom = s.fnRom := rfl
@[simp] theorem endRun_word : (s.endRun).word = s.word := rfl
@[simp] theorem endRun_diagValid : (s.endRun).diagValid = s.diagValid := rfl
@[simp] theorem endRun_diagText : (s.endRun).diagText = s.diagText := rfl
@[simp] theorem endRun_pipe : (s.endRun).pipe =
    { s.pipe with phase := .ended, inputHeld := false, outputHeld := false } := rfl
@[simp] theorem endRun_draws : (s.endRun).draws = s.draws := rfl

@[simp] theorem failIo_opcRom : (s.failIo e).opcRom = s.opcRom := rfl
@[simp] theorem failIo_fnRom : (s.failIo e).fnRom = s.fnRom := rfl
@[simp] theorem failIo_word : (s.failIo e).word = s.word := rfl
@[simp] theorem failIo_diagValid : (s.failIo e).diagValid = s.diagValid := rfl
@[simp] theorem failIo_diagText : (s.failIo e).diagText = s.diagText := rfl
@[simp] theorem failIo_pipe : (s.failIo e).pipe =
    { s.pipe with
      phase := .failed e, inputHeld := false, outputHeld := false
      reports := s.pipe.reports ++ [e], exitStatus := some (Config.failStatus e) } := rfl
@[simp] theorem failIo_draws : (s.failIo e).draws = s.draws := rfl

@[simp] theorem openInputFile_opcRom : s.openInputFile.opcRom = s.opcRom := by
  unfold State.openInputFile; split <;> rfl
@[simp] theorem openInputFile_fnRom : s.openInputFile.fnRom = s.fnRom := by
  unfold State.openInputFile; split <;> rfl
@[simp] theorem openInputFile_word : s.openInputFile.word = s.word := by
  unfold State.openInputFile; split <;> rfl
@[simp] theorem openInputFile_diagValid : s.openInputFile.diagValid = s.diagValid := by
  unfold State.openInputFile; split <;> rfl
@[simp] theorem openInputFile_diagText : s.openInputFile.diagText = s.diagText := by
  unfold State.openInputFile; split <;> rfl
@[simp] theorem openInputFile_draws : s.openInputFile.draws = s.draws := by
  unfold State.openInputFile; split <;> rfl

@[simp] theorem openOutputFile_opcRom : s.openOutputFile.opcRom = s.opcRom := by
  unfold State.openOutputFile; split <;> rfl
@[simp] theorem openOutputFile_fnRom : s.openOutputFile.fnRom = s.fnRom := by
  unfold State.openOutputFile; split <;> rfl
@[simp] theorem openOutputFile_word : s.openOutputFile.word = s.word := by
  unfold State.openOutputFile; split <;> rfl
@[simp] theorem openOutputFile_diagValid : s.openOutputFile.diagValid = s.diagValid := by
  unfold State.openOutputFile; split <;> rfl
@[simp] theorem openOutputFile_diagText : s.openOutputFile.diagText = s.diagText := by
  unfold State.openOutputFile; split <;> rfl
@[simp] theorem openOutputFile_draws : s.openOutputFile.draws = s.draws := by
  unfold State.openOutputFile; split <;> rfl

end Sys2Proof.Machine
end

