-- ==== Sys2Proof/Laws/Ops.lean ====
section
/-! SUPPORT. What the shared operations can do, said once. -/

namespace Sys2Proof.Machine

/-- What an answer may do besides driving the ports. -/
theorem emitWord_unchanged (w : Word) (s : State) : Unchanged s (s.emitWord w) := ⟨rfl, rfl, rfl⟩

theorem emitDiag_unchanged (d : Text) (s : State) : Unchanged s (s.emitDiag d) := ⟨rfl, rfl, rfl⟩

/-- A meaning that emits a word answers with it. -/
theorem wordAnswer_emitWord (w : Word) (s : State) : WordAnswer (.next (s.emitWord w)) s w :=
  ⟨_, rfl, rfl, rfl, emitWord_unchanged w s⟩

theorem answerJ_ok (m : Text) (f : JFields) (s : State) :
    answerJ m (.ok f) s = .next (s.emitWord (packJ (s.opc m) f)) := rfl

theorem answerI_ok (m : Text) (f : IFields) (s : State) :
    answerI m (.ok f) s = .next (s.emitWord (packI (s.opc m) f)) := rfl

theorem answerR_ok (m : Text) (f : RFields) (s : State) :
    answerR m (.ok f) s = .next (s.emitWord (packR (s.opc m) f (s.funct m))) := rfl

theorem answerJ_malformed (m : Text) (s : State) : answerJ m .malformed s = answerMalformed m s := rfl

theorem answerI_malformed (m : Text) (s : State) : answerI m .malformed s = answerMalformed m s := rfl

theorem answerR_malformed (m : Text) (s : State) : answerR m .malformed s = answerMalformed m s := rfl

/-- Every answer of the encoder emits one word, or it emits the diagnostic. -/
def Emits (r : Result) (s : State) : Prop :=
  (∃ w, r = .next (s.emitWord w)) ∨ r = .next (s.emitDiag Config.mfc0Diag)

theorem answerMalformed_emits (m : Text) (s : State) : Emits (answerMalformed m s) s := .inl ⟨_, rfl⟩

theorem answerJ_emits (m : Text) (f : Parsed JFields) (s : State) : Emits (answerJ m f s) s := by
  cases f
  · exact .inl ⟨_, rfl⟩
  · exact answerMalformed_emits m s

theorem answerI_emits (m : Text) (f : Parsed IFields) (s : State) : Emits (answerI m f s) s := by
  cases f
  · exact .inl ⟨_, rfl⟩
  · exact answerMalformed_emits m s

theorem answerR_emits (m : Text) (f : Parsed RFields) (s : State) : Emits (answerR m f s) s := by
  cases f
  · exact .inl ⟨_, rfl⟩
  · exact answerMalformed_emits m s

theorem answerDiag_emits (s : State) : Emits (answerDiag s) s := .inr rfl

/-- What `exec` can do: one emission, whatever the instruction. -/
theorem exec_emits (i : Instr) (s : State) : Emits (exec i s) s := by
  cases i with
  | mfc0 => exact answerDiag_emits s
  | j ops | jal ops => exact answerJ_emits _ _ s
  | addi ops | addiu ops | andi ops | ori ops | lw ops | sw ops | lui ops | beq ops | bne ops
  | slti ops | sltiu ops => exact answerI_emits _ _ s
  | add ops | sub ops | addu ops | subu ops | mult ops | multu ops | div ops | divu ops | mfhi ops
  | mflo ops | and ops | or ops | sll ops | srl ops | slt ops | sltu ops | jr ops | rbit ops | rev ops
  | add8 ops | sadd ops | ssub ops => exact answerR_emits _ _ s

/-- What `answer` can do: one emission, whatever the request. -/
theorem answer_emits (r : Request) (s : State) : Emits (answer r s) s := by
  unfold answer
  cases decodeRequest r with
  | instr i => exact exec_emits i s
  | rejected why => exact answerR_emits _ _ s

/-- An emission answers a next state that leaves the ROMs and the host alone. -/
theorem Emits.unchanged {r : Result} {s : State} (h : Emits r s) : ∃ t, r = .next t ∧ Unchanged s t := by
  obtain ⟨w, rfl⟩ | rfl := h
  · exact ⟨_, rfl, emitWord_unchanged w s⟩
  · exact ⟨_, rfl, emitDiag_unchanged _ s⟩

end Sys2Proof.Machine
end

