-- ==== Sys2Proof/Laws/PerInstr.lean ====
section
/-! SUPPORT. Facts about each instruction as syntax, one lemma for each constructor. -/

namespace Sys2Proof.Machine

/-- The classifier finds every vocabulary entry at its own bytes (R39, R40). -/
theorem lookupMnemonic_text (m : Mnemonic) : lookupMnemonic m.text = some m := by
  cases m <;> decide

/-- No vocabulary entry holds the byte at which a line splits. -/
theorem text_no_space (m : Mnemonic) : space ∉ m.text := by
  cases m <;> decide

/-- What the classifier finds has those bytes. -/
theorem lookupMnemonic_some {t : Text} {m : Mnemonic} (h : lookupMnemonic t = some m) : m.text = t := by
  have := List.find?_some h
  simpa using this

/-- Splitting a line at its first space. -/
theorem splitLine_append (a b : Text) (h : space ∉ a) :
    splitLine (a ++ space :: b) = { mnem := a, opnd := b } := by
  induction a with
  | nil => simp [splitLine]
  | cons c t ih =>
    simp only [List.mem_cons, not_or] at h
    simp [splitLine, Ne.symm h.1, ih h.2]

/-- The line of an instruction splits into its mnemonic and its operand text. -/
theorem splitLine_line (i : Instr) :
    splitLine i.line = { mnem := i.mnemonic.text, opnd := i.operandText } :=
  splitLine_append _ _ (text_no_space _)

end Sys2Proof.Machine

/-- The line of an instruction names its mnemonic: it splits after the mnemonic's bytes, where the
classifier finds the vocabulary entry. -/
def Sys2Proof.Laws.Naming.Statement (i : Sys2Proof.Instr) : Prop :=
  (Sys2Proof.Machine.splitLine i.line).opnd = i.operandText ∧
  Sys2Proof.Machine.lookupMnemonic (Sys2Proof.Machine.splitLine i.line).mnem = some i.mnemonic

theorem Sys2Proof.Laws.Naming.all (i : Sys2Proof.Instr) : Sys2Proof.Laws.Naming.Statement i := by
  unfold Sys2Proof.Laws.Naming.Statement
  rw [Sys2Proof.Machine.splitLine_line]
  exact ⟨rfl, Sys2Proof.Machine.lookupMnemonic_text _⟩

theorem Sys2Proof.Laws.Naming.j (ops : Sys2Proof.Parsed Sys2Proof.JTarget) :
    Sys2Proof.Laws.Naming.Statement (.j ops) :=
  Sys2Proof.Laws.Naming.all _

theorem Sys2Proof.Laws.Naming.jal (ops : Sys2Proof.Parsed Sys2Proof.JTarget) :
    Sys2Proof.Laws.Naming.Statement (.jal ops) :=
  Sys2Proof.Laws.Naming.all _

theorem Sys2Proof.Laws.Naming.addi (ops : Sys2Proof.Parsed Sys2Proof.IArith) :
    Sys2Proof.Laws.Naming.Statement (.addi ops) :=
  Sys2Proof.Laws.Naming.all _

theorem Sys2Proof.Laws.Naming.addiu (ops : Sys2Proof.Parsed Sys2Proof.IArith) :
    Sys2Proof.Laws.Naming.Statement (.addiu ops) :=
  Sys2Proof.Laws.Naming.all _

theorem Sys2Proof.Laws.Naming.andi (ops : Sys2Proof.Parsed Sys2Proof.IArith) :
    Sys2Proof.Laws.Naming.Statement (.andi ops) :=
  Sys2Proof.Laws.Naming.all _

theorem Sys2Proof.Laws.Naming.ori (ops : Sys2Proof.Parsed Sys2Proof.IArith) :
    Sys2Proof.Laws.Naming.Statement (.ori ops) :=
  Sys2Proof.Laws.Naming.all _

theorem Sys2Proof.Laws.Naming.lw (ops : Sys2Proof.Parsed Sys2Proof.IMem) :
    Sys2Proof.Laws.Naming.Statement (.lw ops) :=
  Sys2Proof.Laws.Naming.all _

theorem Sys2Proof.Laws.Naming.sw (ops : Sys2Proof.Parsed Sys2Proof.IMem) :
    Sys2Proof.Laws.Naming.Statement (.sw ops) :=
  Sys2Proof.Laws.Naming.all _

theorem Sys2Proof.Laws.Naming.lui (ops : Sys2Proof.Parsed Sys2Proof.ILui) :
    Sys2Proof.Laws.Naming.Statement (.lui ops) :=
  Sys2Proof.Laws.Naming.all _

theorem Sys2Proof.Laws.Naming.beq (ops : Sys2Proof.Parsed Sys2Proof.IArith) :
    Sys2Proof.Laws.Naming.Statement (.beq ops) :=
  Sys2Proof.Laws.Naming.all _

theorem Sys2Proof.Laws.Naming.bne (ops : Sys2Proof.Parsed Sys2Proof.IArith) :
    Sys2Proof.Laws.Naming.Statement (.bne ops) :=
  Sys2Proof.Laws.Naming.all _

theorem Sys2Proof.Laws.Naming.slti (ops : Sys2Proof.Parsed Sys2Proof.IArith) :
    Sys2Proof.Laws.Naming.Statement (.slti ops) :=
  Sys2Proof.Laws.Naming.all _

theorem Sys2Proof.Laws.Naming.sltiu (ops : Sys2Proof.Parsed Sys2Proof.IArith) :
    Sys2Proof.Laws.Naming.Statement (.sltiu ops) :=
  Sys2Proof.Laws.Naming.all _

theorem Sys2Proof.Laws.Naming.add (ops : Sys2Proof.Parsed Sys2Proof.RThree) :
    Sys2Proof.Laws.Naming.Statement (.add ops) :=
  Sys2Proof.Laws.Naming.all _

theorem Sys2Proof.Laws.Naming.sub (ops : Sys2Proof.Parsed Sys2Proof.RThree) :
    Sys2Proof.Laws.Naming.Statement (.sub ops) :=
  Sys2Proof.Laws.Naming.all _

theorem Sys2Proof.Laws.Naming.addu (ops : Sys2Proof.Parsed Sys2Proof.RThree) :
    Sys2Proof.Laws.Naming.Statement (.addu ops) :=
  Sys2Proof.Laws.Naming.all _

theorem Sys2Proof.Laws.Naming.subu (ops : Sys2Proof.Parsed Sys2Proof.RThree) :
    Sys2Proof.Laws.Naming.Statement (.subu ops) :=
  Sys2Proof.Laws.Naming.all _

theorem Sys2Proof.Laws.Naming.mult (ops : Sys2Proof.Parsed Sys2Proof.RRsRt) :
    Sys2Proof.Laws.Naming.Statement (.mult ops) :=
  Sys2Proof.Laws.Naming.all _

theorem Sys2Proof.Laws.Naming.multu (ops : Sys2Proof.Parsed Sys2Proof.RRsRt) :
    Sys2Proof.Laws.Naming.Statement (.multu ops) :=
  Sys2Proof.Laws.Naming.all _

theorem Sys2Proof.Laws.Naming.div (ops : Sys2Proof.Parsed Sys2Proof.RRsRt) :
    Sys2Proof.Laws.Naming.Statement (.div ops) :=
  Sys2Proof.Laws.Naming.all _

theorem Sys2Proof.Laws.Naming.divu (ops : Sys2Proof.Parsed Sys2Proof.RRsRt) :
    Sys2Proof.Laws.Naming.Statement (.divu ops) :=
  Sys2Proof.Laws.Naming.all _

theorem Sys2Proof.Laws.Naming.mfhi (ops : Sys2Proof.Parsed Sys2Proof.RRd) :
    Sys2Proof.Laws.Naming.Statement (.mfhi ops) :=
  Sys2Proof.Laws.Naming.all _

theorem Sys2Proof.Laws.Naming.mflo (ops : Sys2Proof.Parsed Sys2Proof.RRd) :
    Sys2Proof.Laws.Naming.Statement (.mflo ops) :=
  Sys2Proof.Laws.Naming.all _

theorem Sys2Proof.Laws.Naming.and (ops : Sys2Proof.Parsed Sys2Proof.RThree) :
    Sys2Proof.Laws.Naming.Statement (.and ops) :=
  Sys2Proof.Laws.Naming.all _

theorem Sys2Proof.Laws.Naming.or (ops : Sys2Proof.Parsed Sys2Proof.RThree) :
    Sys2Proof.Laws.Naming.Statement (.or ops) :=
  Sys2Proof.Laws.Naming.all _

theorem Sys2Proof.Laws.Naming.sll (ops : Sys2Proof.Parsed Sys2Proof.RShift) :
    Sys2Proof.Laws.Naming.Statement (.sll ops) :=
  Sys2Proof.Laws.Naming.all _

theorem Sys2Proof.Laws.Naming.srl (ops : Sys2Proof.Parsed Sys2Proof.RShift) :
    Sys2Proof.Laws.Naming.Statement (.srl ops) :=
  Sys2Proof.Laws.Naming.all _

theorem Sys2Proof.Laws.Naming.slt (ops : Sys2Proof.Parsed Sys2Proof.RThree) :
    Sys2Proof.Laws.Naming.Statement (.slt ops) :=
  Sys2Proof.Laws.Naming.all _

theorem Sys2Proof.Laws.Naming.sltu (ops : Sys2Proof.Parsed Sys2Proof.RThree) :
    Sys2Proof.Laws.Naming.Statement (.sltu ops) :=
  Sys2Proof.Laws.Naming.all _

theorem Sys2Proof.Laws.Naming.jr (ops : Sys2Proof.Parsed Sys2Proof.RRs) :
    Sys2Proof.Laws.Naming.Statement (.jr ops) :=
  Sys2Proof.Laws.Naming.all _

theorem Sys2Proof.Laws.Naming.mfc0 : Sys2Proof.Laws.Naming.Statement .mfc0 :=
  Sys2Proof.Laws.Naming.all _

theorem Sys2Proof.Laws.Naming.rbit (ops : Sys2Proof.Parsed Sys2Proof.RRsRt) :
    Sys2Proof.Laws.Naming.Statement (.rbit ops) :=
  Sys2Proof.Laws.Naming.all _

theorem Sys2Proof.Laws.Naming.rev (ops : Sys2Proof.Parsed Sys2Proof.RRsRt) :
    Sys2Proof.Laws.Naming.Statement (.rev ops) :=
  Sys2Proof.Laws.Naming.all _

theorem Sys2Proof.Laws.Naming.add8 (ops : Sys2Proof.Parsed Sys2Proof.RThree) :
    Sys2Proof.Laws.Naming.Statement (.add8 ops) :=
  Sys2Proof.Laws.Naming.all _

theorem Sys2Proof.Laws.Naming.sadd (ops : Sys2Proof.Parsed Sys2Proof.RThree) :
    Sys2Proof.Laws.Naming.Statement (.sadd ops) :=
  Sys2Proof.Laws.Naming.all _

theorem Sys2Proof.Laws.Naming.ssub (ops : Sys2Proof.Parsed Sys2Proof.RThree) :
    Sys2Proof.Laws.Naming.Statement (.ssub ops) :=
  Sys2Proof.Laws.Naming.all _
end

