-- ==== Sys2Proof/Laws/Pipeline.lean ====
section
/-! SUPPORT. What the host does in one step. -/

namespace Sys2Proof.Machine

/-- There is a next line exactly where text is left (R64). -/
theorem nextLine_eq_none (t : Text) : nextLine t = none ↔ t = [] := by
  cases t with
  | nil => simp [nextLine]
  | cons c t =>
    unfold nextLine
    split
    · simp
    · split <;> simp

/-- Reading a line leaves less text. -/
theorem nextLine_length {t line rest : Text} (h : nextLine t = some (line, rest)) :
    rest.length < t.length := by
  induction t generalizing line rest with
  | nil => simp [nextLine] at h
  | cons c t ih =>
    unfold nextLine at h
    split at h
    · cases h; simp
    · split at h
      · cases h; simp
      · rename_i heq
        cases h
        have := ih heq
        simp only [List.length_cons]; omega

/-- What a step does while lines are presented: it answers the next line, leaving the ROMs and the rest of
the host alone, and writes the answer. -/
theorem step_line {s : State} {line rest : Text} (hp : s.pipe.phase = .lines)
    (hn : nextLine s.pipe.input = some (line, rest)) :
    ∃ u, answer (splitLine line) (s.withInput rest) = .next u ∧ Unchanged (s.withInput rest) u ∧
      step s = .next u.writeLine := by
  obtain ⟨u, hu, hc⟩ := (answer_emits (splitLine line) (s.withInput rest)).unchanged
  refine ⟨u, hu, hc, ?_⟩
  unfold step stepLines presentLine
  rw [hp]
  simp only [hn, hu, writeAnswer]

/-- One step at the front of a run. -/
theorem run_succ {s t : State} (n : Nat) (h : step s = .next t) :
    Host.Core.run Sys2Proof.core (n + 1) s = Host.Core.run Sys2Proof.core n t := by
  have h' : Sys2Proof.core.step s = .next t := h
  simp only [Host.Core.run, h']

theorem linesOf_cons {c : Byte} (t : Text) (h : c ≠ lineFeed) :
    linesOf (c :: t) = match linesOf t with
      | [] => [[c]]
      | line :: rest => (c :: line) :: rest := if_neg h

/-- The lines of a text are its next line and the lines after it (R64). -/
theorem linesOf_next {t line rest : Text} (h : nextLine t = some (line, rest)) :
    linesOf t = line :: linesOf rest := by
  induction t generalizing line rest with
  | nil => cases h
  | cons c t ih =>
    unfold nextLine at h
    split at h
    · rename_i hc
      cases h
      rw [hc]; rfl
    · rename_i hc
      rw [linesOf_cons _ hc]
      split at h
      · rename_i heq
        cases h
        rw [(nextLine_eq_none t).mp heq]; rfl
      · rename_i heq
        cases h
        rw [ih heq]

end Sys2Proof.Machine
end

