-- ==== Sys2Proof/Laws/Rom.lean ====
section
/-! SUPPORT. What the built ROMs read at a vocabulary entry. -/

namespace Sys2Proof.Machine

/-- The opcode ROM at a vocabulary entry (R41). -/
theorem opc_text {p : Params} {s : State} (h : RomsBuilt p s) (m : Mnemonic) : s.opc m.text = opcodeOf p m := by
  unfold State.opc
  rw [h.1]
  cases m <;> rfl

/-- The function-code ROM at a vocabulary entry; a J- or I-format one is missing there and reads 0 (R42, R43). -/
theorem funct_text {p : Params} {s : State} (h : RomsBuilt p s) (m : Mnemonic) :
    s.funct m.text = functOf p m := by
  unfold State.funct
  rw [h.2]
  cases m <;> rfl

/-- An R-format mnemonic has opcode 0 (R41). -/
theorem opcodeOf_R (p : Params) (m : Mnemonic) (hm : formatOf m = .R) : opcodeOf p m = 0 := by
  cases m <;> first | rfl | cases hm

/-- What is in a vocabulary entry's place is a byte string of the vocabulary. -/
theorem lookupMnemonic_none {m : Text} (h : ∀ k : Mnemonic, k.text ≠ m) : lookupMnemonic m = none := by
  cases hm : lookupMnemonic m with
  | none => rfl
  | some k => exact absurd (lookupMnemonic_some hm) (h k)

/-- An answered word, with the frame, from the word alone. -/
theorem wordAnswer_of_eq {s : State} {w w' : Word} (h : w = w') : WordAnswer (.next (s.emitWord w)) s w' :=
  h ▸ wordAnswer_emitWord w s

end Sys2Proof.Machine
end

