-- ==== Sys2Proof/Laws/Text.lean ====
section
/-! SUPPORT. The parser on rendered text: what the encoder to text writes, the operand parser reads back. -/

namespace Sys2Proof.Machine

/-! ## Digits -/

/-- The text does not begin with a digit, so that a literal before it ends there (R45). -/
def noDigitFirst (t : Text) : Prop := ∀ c, t.head? = some c → isDigit c = false

/-- All bytes are digits. -/
def allDigits (t : Text) : Prop := ∀ c ∈ t, isDigit c = true

theorem spanDigits_append (ds x : Text) (h : allDigits ds) (hx : noDigitFirst x) :
    spanDigits (ds ++ x) = (ds, x) := by
  induction ds with
  | nil =>
    cases x with
    | nil => rfl
    | cons c t =>
      have hc : isDigit c = false := hx c rfl
      simp [spanDigits, hc]
  | cons c t ih =>
    have hc : isDigit c = true := h c (by simp)
    have ih' := ih fun d hd => h d (by simp [hd])
    simp [spanDigits, hc, ih']

theorem decimalFrom_append (acc : Nat) (a b : Text) :
    decimalFrom acc (a ++ b) = decimalFrom (decimalFrom acc a) b := by
  induction a generalizing acc with
  | nil => rfl
  | cons c t ih => exact ih _

theorem digit_toNat (d : Nat) (h : d < 10) : (BitVec.ofNat 8 (48 + d)).toNat = 48 + d := by
  simp; omega

theorem isDigit_digit (d : Nat) (h : d < 10) : isDigit (BitVec.ofNat 8 (48 + d)) = true := by
  simp only [isDigit, digit_toNat d h]
  simp; omega

theorem decimalDigits_small (fuel n : Nat) (h : n < 10) :
    decimalDigits (fuel + 1) n = [BitVec.ofNat 8 (48 + n)] := if_pos h

theorem decimalDigits_large (fuel n : Nat) (h : ¬ n < 10) :
    decimalDigits (fuel + 1) n = decimalDigits fuel (n / 10) ++ [BitVec.ofNat 8 (48 + n % 10)] := if_neg h

theorem decimalDigits_ne_nil (fuel n : Nat) : decimalDigits (fuel + 1) n ≠ [] := by
  by_cases h : n < 10
  · simp [decimalDigits_small fuel n h]
  · simp [decimalDigits_large fuel n h]

theorem allDigits_decimalDigits (fuel n : Nat) : allDigits (decimalDigits fuel n) := by
  induction fuel generalizing n with
  | zero => intro c hc; simp [decimalDigits] at hc
  | succ fuel ih =>
    intro c hc
    unfold decimalDigits at hc
    split at hc
    · simp only [List.mem_singleton] at hc
      exact hc ▸ isDigit_digit n ‹_›
    · simp only [List.mem_append, List.mem_singleton] at hc
      obtain hc | hc := hc
      · exact ih _ c hc
      · exact hc ▸ isDigit_digit _ (Nat.mod_lt _ (by omega))

/-- The digits of a number have its value, where `fuel` digits are enough. -/
theorem decimalValue_decimalDigits (fuel n : Nat) (h : n < 10 ^ fuel) :
    decimalValue (decimalDigits fuel n) = n := by
  induction fuel generalizing n with
  | zero =>
    obtain rfl : n = 0 := by simpa using h
    rfl
  | succ fuel ih =>
    by_cases h' : n < 10
    · have hd := digit_toNat n h'
      rw [decimalDigits_small fuel n h']
      show 10 * 0 + ((BitVec.ofNat 8 (48 + n)).toNat - 48) = n
      omega
    · have hq : n / 10 < 10 ^ fuel := by rw [Nat.pow_succ] at h; omega
      have hd := digit_toNat (n % 10) (Nat.mod_lt n (by omega))
      rw [decimalDigits_large fuel n h', decimalValue, decimalFrom_append]
      show 10 * decimalValue (decimalDigits fuel (n / 10)) + ((BitVec.ofNat 8 (48 + n % 10)).toNat - 48) = n
      rw [ih _ hq]
      omega

/-! ## Sequences of reads -/

/-- A sequence of two reads succeeds exactly when both do, the second after the first. -/
theorem bind_eq_ok {α β : Type} {p : Parsed α} {f : α → Parsed β} {b : β} :
    p.bind f = .ok b ↔ ∃ a, p = .ok a ∧ f a = .ok b := by
  cases p <;> simp [Parsed.bind]

theorem map_eq_ok {α β : Type} {p : Parsed α} {f : α → β} {b : β} :
    p.map f = .ok b ↔ ∃ a, p = .ok a ∧ f a = b := by
  cases p <;> simp [Parsed.map]

/-- A register and its comma are read exactly when the register is, and then the comma. -/
theorem readRegComma_eq_ok {t u : Text} {v : Int} :
    readRegComma t = .ok (v, u) ↔ ∃ r, readReg t = .ok (v, r) ∧ readLit r ',' = .ok u := by
  simp [readRegComma, bind_eq_ok, map_eq_ok]

/-! ## Literals, registers, delimiters -/

theorem skipSpace_cons (c : Byte) (t : Text) (h : isSpace c = false) : skipSpace (c :: t) = c :: t := by
  simp [skipSpace, h]

theorem isSpace_of_isDigit (c : Byte) (h : isDigit c = true) : isSpace c = false := by
  revert h; revert c; decide

theorem sign_not_digit (c : Byte) (h : isDigit c = true) : c ≠ byteOf '-' ∧ c ≠ byteOf '+' := by
  revert h; revert c; decide

/-- `read_int` on unsigned digits (R45). -/
theorem readInt_digits (ds x : Text) (hne : ds ≠ []) (hd : allDigits ds) (hx : noDigitFirst x) :
    readInt (ds ++ x) =
      if inLitRange (decimalValue ds) then .ok ((decimalValue ds : Int), x) else .malformed := by
  obtain ⟨c, t, rfl⟩ := List.exists_cons_of_ne_nil hne
  have hc := hd c (by simp)
  have hs := spanDigits_append _ x hd hx
  have hsign : readSign (c :: (t ++ x)) = (false, c :: (t ++ x)) := by
    simp [readSign, (sign_not_digit c hc).1, (sign_not_digit c hc).2]
  simp only [List.cons_append] at hs ⊢
  simp [readInt, skipSpace_cons _ _ (isSpace_of_isDigit c hc), hsign, hs, signedValue]

/-- `read_int` on digits after a `-` (R45). -/
theorem readInt_minus (ds x : Text) (hne : ds ≠ []) (hd : allDigits ds) (hx : noDigitFirst x) :
    readInt (byteOf '-' :: (ds ++ x)) =
      if inLitRange (-(decimalValue ds : Int)) then .ok (-(decimalValue ds : Int), x) else .malformed := by
  have hs := spanDigits_append _ x hd hx
  have hsp : isSpace (byteOf '-') = false := by decide
  simp [readInt, skipSpace_cons _ _ hsp, readSign, hs, signedValue, hne]

/-- The range of a literal, with LIT_BITS = 32 (R45). -/
theorem inLitRange_iff (v : Int) : inLitRange v = true ↔ -2147483648 ≤ v ∧ v < 2147483648 := by
  have h : (2 ^ (Config.litBits - 1) : Nat) = 2147483648 := by norm_num [Config.litBits]
  rw [inLitRange, h, Bool.and_eq_true, decide_eq_true_iff, decide_eq_true_iff]
  simp

/-- LIT_BITS digits are enough for a literal. -/
theorem natAbs_lt_of_inLitRange (v : Int) (hv : inLitRange v = true) : v.natAbs < 10 ^ Config.litBits := by
  have h := (inLitRange_iff v).mp hv
  have h10 : 10 ^ Config.litBits = 100000000000000000000000000000000 := by norm_num [Config.litBits]
  rw [h10]; omega

/-- The text of a literal is read back as its value (R45). -/
theorem readInt_intText (v : Int) (x : Text) (hv : inLitRange v = true) (hx : noDigitFirst x) :
    readInt (intText v ++ x) = .ok (v, x) := by
  have hb := natAbs_lt_of_inLitRange v hv
  have hval := decimalValue_decimalDigits _ _ hb
  have hne : decimalDigits Config.litBits v.natAbs ≠ [] := decimalDigits_ne_nil 31 _
  have hd := allDigits_decimalDigits Config.litBits v.natAbs
  unfold intText
  split
  · have e : -(v.natAbs : Int) = v := by omega
    rw [List.cons_append, readInt_minus _ _ hne hd hx, hval, e, hv]; rfl
  · have e : (v.natAbs : Int) = v := by omega
    rw [readInt_digits _ _ hne hd hx, hval, e, hv]; rfl

theorem readLit_cons (c : Char) (x : Text) (h : isSpace (byteOf c) = false) :
    readLit (byteOf c :: x) c = .ok x := by
  simp [readLit, skipSpace_cons _ _ h, expect]

/-- The text of a register operand is read back (R46). -/
theorem readReg_regText (v : Int) (x : Text) (hv : inLitRange v = true) (hx : noDigitFirst x) :
    readReg (regText v ++ x) = .ok (v, x) := by
  have h : isSpace (byteOf '$') = false := by decide
  simp [readReg, regText, readLit_cons _ _ h, Parsed.bind, readInt_intText v x hv hx]

theorem readInt_space (x : Text) : readInt (space :: x) = readInt x := rfl

theorem readLit_space (x : Text) (c : Char) : readLit (space :: x) c = readLit x c := rfl

theorem readReg_space (x : Text) : readReg (space :: x) = readReg x := rfl

theorem readRegComma_space (x : Text) : readRegComma (space :: x) = readRegComma x := rfl

/-- A register operand and the comma and space after it are read back. -/
theorem readRegComma_regText (v : Int) (x : Text) (hv : inLitRange v = true) :
    readRegComma (regText v ++ (commaText ++ x)) = .ok (v, space :: x) := by
  have hx : noDigitFirst (commaText ++ x) := by
    intro c hc
    have : byteOf ',' = c := by simpa [commaText, ascii] using hc
    subst this; decide
  have hc : readLit (commaText ++ x) ',' = .ok (space :: x) :=
    readLit_cons ',' (space :: x) (by decide)
  simp [readRegComma, readReg_regText v _ hv hx, Parsed.bind, hc, Parsed.map]

theorem noDigitFirst_nil : noDigitFirst [] := by intro c hc; simp at hc

/-- A text that begins with a byte that is no digit. -/
theorem noDigitFirst_cons {c : Byte} (t : Text) (h : isDigit c = false) : noDigitFirst (c :: t) := by
  intro d hd
  obtain rfl : c = d := by simpa using hd
  exact h

/-! ## Whole operand texts: each shape's parser reads back the shape's text -/

theorem readInt_end (v : Int) (hv : inLitRange v = true) : readInt (intText v) = .ok (v, []) := by
  simpa using readInt_intText v [] hv noDigitFirst_nil

theorem readInt_space_end (v : Int) (hv : inLitRange v = true) : readInt (space :: intText v) = .ok (v, []) := by
  rw [readInt_space, readInt_end v hv]

theorem readReg_end (v : Int) (hv : inLitRange v = true) : readReg (regText v) = .ok (v, []) := by
  simpa using readReg_regText v [] hv noDigitFirst_nil

theorem readReg_space_end (v : Int) (hv : inLitRange v = true) : readReg (space :: regText v) = .ok (v, []) := by
  rw [readReg_space, readReg_end v hv]

theorem readRegComma_space_regText (v : Int) (x : Text) (hv : inLitRange v = true) :
    readRegComma (space :: (regText v ++ (commaText ++ x))) = .ok (v, space :: x) := by
  rw [readRegComma_space, readRegComma_regText v x hv]

theorem parseJTarget_text (o : JTarget) (h : o.literals.all inLitRange = true) :
    parseJTarget o.text = .ok o := by
  simp only [JTarget.literals, List.all_cons, List.all_nil, Bool.and_true] at h
  simp [parseJTarget, JTarget.text, readInt_end, h, Parsed.map]

theorem parseIArith_text (o : IArith) (h : o.literals.all inLitRange = true) :
    parseIArith o.text = .ok o := by
  simp only [IArith.literals, List.all_cons, List.all_nil, Bool.and_true, Bool.and_eq_true] at h
  simp [parseIArith, IArith.text, readRegComma_regText, readRegComma_space_regText, readInt_space_end, h,
    Parsed.map, Parsed.bind]

theorem parseILui_text (o : ILui) (h : o.literals.all inLitRange = true) : parseILui o.text = .ok o := by
  simp only [ILui.literals, List.all_cons, List.all_nil, Bool.and_true, Bool.and_eq_true] at h
  simp [parseILui, ILui.text, readRegComma_regText, readInt_space_end, h, Parsed.map, Parsed.bind]

theorem parseIMem_text (o : IMem) (h : o.literals.all inLitRange = true) : parseIMem o.text = .ok o := by
  simp only [IMem.literals, List.all_cons, List.all_nil, Bool.and_true, Bool.and_eq_true] at h
  have h1 : noDigitFirst (ascii ['('] ++ (regText o.rs ++ ascii [')'])) := noDigitFirst_cons _ (by decide)
  have h2 : noDigitFirst (ascii [')']) := noDigitFirst_cons _ (by decide)
  have h3 : readLit (ascii ['('] ++ (regText o.rs ++ ascii [')'])) '(' = .ok (regText o.rs ++ ascii [')']) :=
    readLit_cons '(' _ (by decide)
  have h4 : readLit (ascii [')']) ')' = .ok [] := readLit_cons ')' _ (by decide)
  have h5 := readInt_intText o.imm _ h.2.1 h1
  simp [parseIMem, IMem.text, readRegComma_regText, readInt_space, h5, h3, h4, h,
    readReg_regText _ _ h.2.2 h2, Parsed.map, Parsed.bind]

theorem parseRRs_text (o : RRs) (h : o.literals.all inLitRange = true) : parseRRs o.text = .ok o := by
  simp only [RRs.literals, List.all_cons, List.all_nil, Bool.and_true] at h
  simp [parseRRs, RRs.text, readReg_end, h, Parsed.map]

theorem parseRRd_text (o : RRd) (h : o.literals.all inLitRange = true) : parseRRd o.text = .ok o := by
  simp only [RRd.literals, List.all_cons, List.all_nil, Bool.and_true] at h
  simp [parseRRd, RRd.text, readReg_end, h, Parsed.map]

theorem parseRRsRt_text (o : RRsRt) (h : o.literals.all inLitRange = true) : parseRRsRt o.text = .ok o := by
  simp only [RRsRt.literals, List.all_cons, List.all_nil, Bool.and_true, Bool.and_eq_true] at h
  simp [parseRRsRt, RRsRt.text, readRegComma_regText, readReg_space_end, h, Parsed.map, Parsed.bind]

theorem parseRShift_text (o : RShift) (h : o.literals.all inLitRange = true) : parseRShift o.text = .ok o := by
  simp only [RShift.literals, List.all_cons, List.all_nil, Bool.and_true, Bool.and_eq_true] at h
  simp [parseRShift, RShift.text, readRegComma_regText, readRegComma_space_regText, readInt_space_end, h,
    Parsed.map, Parsed.bind]

theorem parseRThree_text (o : RThree) (h : o.literals.all inLitRange = true) : parseRThree o.text = .ok o := by
  simp only [RThree.literals, List.all_cons, List.all_nil, Bool.and_true, Bool.and_eq_true] at h
  simp [parseRThree, RThree.text, readRegComma_regText, readRegComma_space_regText, readReg_space_end, h,
    Parsed.map, Parsed.bind]

end Sys2Proof.Machine
end

