-- ==== Sys2Proof/Machine/Flags.lean ====
section
/-! DEFINITION. There is nothing to define here: "The block has no status flags, condition codes or
predicates. No mnemonic reads or writes any" (spec/10_state.md R15). The one-bit output port
`diag_valid` (R19) is driven by `State.emitWord` and `State.emitDiag` in Machine/Ops.lean. -/
end

