-- ==== Sys2Proof/Tests/Slice0.lean ====
section
/-! SUPPORT. The model's own tests. Every expected value is the spec's: the words of spec/95_test_vectors.md and
of the instruction rules, and the fields of spec/opcode_table.json; the values of the OPEN codes are the
test's own. After them, for each statement with hypotheses, a witness that meets them. -/

namespace Sys2Proof.Machine.Tests

/-- Some OPEN function codes, for the tests only. -/
def testOpen : OpenFuncts := { rbit := 48, rev := 49, add8 := 50, sadd := 51, ssub := 52, mfc0 := 0 }

/-- The parameters with them. -/
def testParams : Params := Params.withOpen testOpen

/-- A state with the ROMs built for them. -/
def testState : State :=
  { State.reset with opcRom := opcRomContents testParams, fnRom := fnRomContents testParams }

/-- A state that presents the lines of this text. -/
def presenting (t : String) : State := testState.withText (ascii t.toList)

/-- The word that answers a line. -/
def lineWord (line : String) : Option Word :=
  match answer (splitLine (ascii line.toList)) testState with
  | .next t => if t.diagValid then none else some t.word
  | .fault _ => none
  | .refused _ => none

/-- What a line decodes to. -/
def lineInstr (line : String) : Option Instr := (decodeLine (ascii line.toList)).instr?

/-! ## Words, bit by bit, and lines: one of each for an instruction -/

theorem test_word_j : decodeWordWith testOpen 0b000010_00000000000000010000000000#32 =
    .instr (.j (.ok { target := 1024 })) := by decide

theorem test_line_j : lineWord "j -1" = some 0x0bffffff#32 := by decide

theorem test_word_jal : decodeWordWith testOpen 0b000011_00000000000001000000000000#32 =
    .instr (.jal (.ok { target := 4096 })) := by decide

theorem test_line_jal : lineWord "jal 67108865" = some 0x0c000001#32 := by decide

theorem test_word_addi : decodeWordWith testOpen 0b001000_00110_00101_0000000001100100#32 =
    .instr (.addi (.ok { rt := 5, rs := 6, imm := 100 })) := by decide

theorem test_line_addi : lineWord "addi $ 5, $ 6, +100" = some 0x20c50064#32 := by decide

theorem test_word_addiu : decodeWordWith testOpen 0b001001_00110_00101_0000000001100100#32 =
    .instr (.addiu (.ok { rt := 5, rs := 6, imm := 100 })) := by decide

theorem test_line_addiu : lineWord "addiu $29, $29, -8" = some 0x27bdfff8#32 := by decide

theorem test_word_andi : decodeWordWith testOpen 0b001100_00110_00101_0000000001100100#32 =
    .instr (.andi (.ok { rt := 5, rs := 6, imm := 100 })) := by decide

theorem test_line_andi : lineWord "andi $2, $3, 65535" = some 0x3062ffff#32 := by decide

theorem test_word_ori : decodeWordWith testOpen 0b001101_00110_00101_0000000001100100#32 =
    .instr (.ori (.ok { rt := 5, rs := 6, imm := 100 })) := by decide

theorem test_line_ori : lineWord "ori $2, $0, 0x10" = some 0x34020000#32 := by decide

theorem test_word_lw : decodeWordWith testOpen 0b100011_01001_01000_0000000000000100#32 =
    .instr (.lw (.ok { rt := 8, imm := 4, rs := 9 })) := by decide

theorem test_line_lw : lineWord "lw $8, -4($29)" = some 0x8fa8fffc#32 := by decide

theorem test_word_sw : decodeWordWith testOpen 0b101011_01001_01000_0000000000000100#32 =
    .instr (.sw (.ok { rt := 8, imm := 4, rs := 9 })) := by decide

theorem test_line_sw : lineWord "sw $2, -1($0)" = some 0xac02ffff#32 := by decide

theorem test_word_lui : decodeWordWith testOpen 0b001111_00000_00010_0001000000000000#32 =
    .instr (.lui (.ok { rt := 2, imm := 4096 })) := by decide

theorem test_line_lui : lineWord "lui $2, 5, $7" = some 0x3c020005#32 := by decide

theorem test_word_beq : decodeWordWith testOpen 0b000100_00110_00101_0000000001100100#32 =
    .instr (.beq (.ok { rt := 5, rs := 6, imm := 100 })) := by decide

theorem test_line_beq : lineWord "beq $1, $2, -3" = some 0x1041fffd#32 := by decide

theorem test_word_bne : decodeWordWith testOpen 0b000101_00110_00101_0000000001100100#32 =
    .instr (.bne (.ok { rt := 5, rs := 6, imm := 100 })) := by decide

theorem test_line_bne : lineWord "bne $8, $0, -2" = some 0x1408fffe#32 := by decide

theorem test_word_slti : decodeWordWith testOpen 0b001010_00110_00101_0000000001100100#32 =
    .instr (.slti (.ok { rt := 5, rs := 6, imm := 100 })) := by decide

theorem test_line_slti : lineWord "slti $5, $6, -100" = some 0x28c5ff9c#32 := by decide

theorem test_word_sltiu : decodeWordWith testOpen 0b001011_00110_00101_0000000001100100#32 =
    .instr (.sltiu (.ok { rt := 5, rs := 6, imm := 100 })) := by decide

theorem test_line_sltiu : lineWord "sltiu $5, $6, 70000" = some 0x2cc51170#32 := by decide

theorem test_word_add : decodeWordWith testOpen 0b000000_00010_00011_00001_00000_100000#32 =
    .instr (.add (.ok { rd := 1, rs := 2, rt := 3 })) := by decide

theorem test_line_add : lineWord "add $-1, $-2, $-3" = some 0x03ddf820#32 := by decide

theorem test_word_sub : decodeWordWith testOpen 0b000000_00010_00011_00001_00000_100010#32 =
    .instr (.sub (.ok { rd := 1, rs := 2, rt := 3 })) := by decide

theorem test_line_sub : lineWord "sub $3, $0, $3" = some 0x00031822#32 := by decide

theorem test_word_addu : decodeWordWith testOpen 0b000000_00010_00011_00001_00000_100001#32 =
    .instr (.addu (.ok { rd := 1, rs := 2, rt := 3 })) := by decide

theorem test_line_addu : lineWord "addu $1, $2, $3" = some 0x00430821#32 := by decide

theorem test_word_subu : decodeWordWith testOpen 0b000000_00010_00011_00001_00000_100011#32 =
    .instr (.subu (.ok { rd := 1, rs := 2, rt := 3 })) := by decide

theorem test_line_subu : lineWord "subu $1, $2, $3" = some 0x00430823#32 := by decide

theorem test_word_mult : decodeWordWith testOpen 0b000000_00100_00101_00000_00000_011000#32 =
    .instr (.mult (.ok { rs := 4, rt := 5 })) := by decide

theorem test_line_mult : lineWord "mult $31, $31" = some 0x03ff0018#32 := by decide

theorem test_word_multu : decodeWordWith testOpen 0b000000_00100_00101_00000_00000_011001#32 =
    .instr (.multu (.ok { rs := 4, rt := 5 })) := by decide

theorem test_line_multu : lineWord "multu $4, $5" = some 0x00850019#32 := by decide

theorem test_word_div : decodeWordWith testOpen 0b000000_00100_00101_00000_00000_011010#32 =
    .instr (.div (.ok { rs := 4, rt := 5 })) := by decide

theorem test_line_div : lineWord "div $4, $0" = some 0x0080001a#32 := by decide

theorem test_word_divu : decodeWordWith testOpen 0b000000_00100_00101_00000_00000_011011#32 =
    .instr (.divu (.ok { rs := 4, rt := 5 })) := by decide

theorem test_line_divu : lineWord "divu $8, $9" = some 0x0109001b#32 := by decide

theorem test_word_mfhi : decodeWordWith testOpen 0b000000_00000_00000_00010_00000_010000#32 =
    .instr (.mfhi (.ok { rd := 2 })) := by decide

theorem test_line_mfhi : lineWord "mfhi $31" = some 0x0000f810#32 := by decide

theorem test_word_mflo : decodeWordWith testOpen 0b000000_00000_00000_00010_00000_010010#32 =
    .instr (.mflo (.ok { rd := 2 })) := by decide

theorem test_line_mflo : lineWord "mflo $2" = some 0x00001012#32 := by decide

theorem test_word_and : decodeWordWith testOpen 0b000000_00010_00011_00001_00000_100100#32 =
    .instr (.and (.ok { rd := 1, rs := 2, rt := 3 })) := by decide

theorem test_line_and : lineWord "and $1, $2, $3" = some 0x00430824#32 := by decide

theorem test_word_or : decodeWordWith testOpen 0b000000_00010_00011_00001_00000_100101#32 =
    .instr (.or (.ok { rd := 1, rs := 2, rt := 3 })) := by decide

theorem test_line_or : lineWord "or $1, $2, $3" = some 0x00430825#32 := by decide

theorem test_word_sll : decodeWordWith testOpen 0b000000_00000_00101_00100_00010_000000#32 =
    .instr (.sll (.ok { rd := 4, rt := 5, shamt := 2 })) := by decide

theorem test_line_sll : lineWord "sll $1, $2, 32" = some 0x00020800#32 := by decide

theorem test_word_srl : decodeWordWith testOpen 0b000000_00000_00101_00100_00010_000010#32 =
    .instr (.srl (.ok { rd := 4, rt := 5, shamt := 2 })) := by decide

theorem test_line_srl : lineWord "srl $2, $2, 33" = some 0x00021042#32 := by decide

theorem test_word_slt : decodeWordWith testOpen 0b000000_00010_00011_00001_00000_101010#32 =
    .instr (.slt (.ok { rd := 1, rs := 2, rt := 3 })) := by decide

theorem test_line_slt : lineWord "slt $1, $2, $3" = some 0x0043082a#32 := by decide

theorem test_word_sltu : decodeWordWith testOpen 0b000000_00010_00011_00001_00000_101011#32 =
    .instr (.sltu (.ok { rd := 1, rs := 2, rt := 3 })) := by decide

theorem test_line_sltu : lineWord "sltu $1, $2, $3" = some 0x0043082b#32 := by decide

theorem test_word_jr : decodeWordWith testOpen 0b000000_11111_00000_00000_00000_001000#32 =
    .instr (.jr (.ok { rs := 31 })) := by decide

theorem test_line_jr : lineWord "jr $-1" = some 0x03e00008#32 := by decide

theorem test_line_mfc0 : ["mfc0 $8, $12", "mfc0", "mfc0 garbage"].map lineInstr =
    [some .mfc0, some .mfc0, some .mfc0] := by decide

theorem test_mfc0_is_the_diagnostic :
    (match exec .mfc0 testState with | .next t => t.diagValid | .fault _ => false | .refused _ => false) =
      true := by decide

theorem test_word_rbit : decodeWordWith testOpen 0b000000_00100_00101_00000_00000_110000#32 =
    .instr (.rbit (.ok { rs := 4, rt := 5 })) := by decide

theorem test_line_rbit : lineWord "rbit $4, $5" = some 0x00850030#32 := by decide

theorem test_word_rev : decodeWordWith testOpen 0b000000_00100_00101_00000_00000_110001#32 =
    .instr (.rev (.ok { rs := 4, rt := 5 })) := by decide

theorem test_line_rev : lineWord "rev $6, $7" = some 0x00c70031#32 := by decide

theorem test_word_add8 : decodeWordWith testOpen 0b000000_00010_00011_00001_00000_110010#32 =
    .instr (.add8 (.ok { rd := 1, rs := 2, rt := 3 })) := by decide

theorem test_line_add8 : lineWord "add8 $1, $2, $3" = some 0x00430832#32 := by decide

theorem test_word_sadd : decodeWordWith testOpen 0b000000_00010_00011_00001_00000_110011#32 =
    .instr (.sadd (.ok { rd := 1, rs := 2, rt := 3 })) := by decide

theorem test_line_sadd : lineWord "sadd $1, $2, $3" = some 0x00430833#32 := by decide

theorem test_word_ssub : decodeWordWith testOpen 0b000000_00010_00011_00001_00000_110100#32 =
    .instr (.ssub (.ok { rd := 1, rs := 2, rt := 3 })) := by decide

theorem test_line_ssub : lineWord "ssub $1, $2, $3" = some 0x00430834#32 := by decide

/-! ## Text -/

theorem test_unknown_mnemonics : ["foo $1, $2, $3", "foo $4, $0, $5", "ADD $1, $2, $3"].map lineWord =
    [some 0x00430800#32, some 0x00052000#32, some 0x00430800#32] := by decide

theorem test_malformed_addi : ["addi $5, $6, 2147483648", "addi $5, $6", "addi $5 $6 100", "addi $t0, $6, 100",
    "addi $5, $6, - 1"].map lineInstr = List.replicate 5 (some (.addi .malformed)) := by decide

theorem test_malformed_lw : ["lw $8, 4($9", "lw $8, ($9)", "lw $5, $6, 100"].map lineInstr =
    List.replicate 3 (some (.lw .malformed)) := by decide

theorem test_malformed_others : ["j $1024", "j", "lui $5, $6, 100", "add $1, $2", "sll $1, $2, $3"].map lineInstr =
    [some (.j .malformed), some (.j .malformed), some (.lui .malformed), some (.add .malformed),
      some (.sll .malformed)] := by decide

theorem test_literal_range : ["addi $5, $6, 2147483647", "addi $5, $6, -2147483648"].map lineWord =
    [some 0x20c5ffff#32, some 0x20c50000#32] := by decide

theorem test_spacing : ["addi $5,$6,100", "addi   $5 ,  $6 ,  100  ", "addi $05, $006, 0100",
    "lw $8, 4 ( $9 )", "add  $1, $2, $3"].map lineWord =
    [some 0x20c50064#32, some 0x20c50064#32, some 0x20c50064#32, some 0x8d280004#32, some 0x00430820#32] := by
  decide

theorem test_only_a_space_splits : splitLine (ascii ['a', 'd', 'd', '\t', '$', '1', ',', ' ', '$', '2']) =
    { mnem := ascii ['a', 'd', 'd', '\t', '$', '1', ','], opnd := ascii ['$', '2'] } := by decide

theorem test_leading_space_and_blank_line : [" add $1, $2, $3", ""].map (fun l => (splitLine (ascii l.toList)).mnem) =
    [[], []] := by decide

theorem test_hex : hexWord 0x8d280004#32 = ascii "8d280004".toList := by decide

/-! ## The step -/

/-- One step writes the word's line and reads the line that named it (P1, line 3). -/
theorem test_step_writes_a_line :
    (match step (presenting "add $9, $9, $8\nj 0") with
      | .next t => some (t.pipe.output, t.pipe.input) | .fault _ => none | .refused _ => none) =
    some (ascii "01284820\n".toList, ascii "j 0".toList) := by decide

/-- A word placed for the next fetch is the instruction that runs first after reset. -/
theorem test_fetch_word :
    (match step (State.reset.withFetchWord 32 0x00430820) with
      | .next t => some t.word | .fault _ => none | .refused _ => none) = some 0x00430820#32 := by decide

theorem test_table_word : decodeTableWord 32 0xac02ffff = some (.sw (.ok { rt := 2, imm := 65535, rs := 0 })) := by
  decide

/-! ## Well-formedness: one ill-formed term for each check -/

theorem test_well_formed : (Instr.addi (.ok { rt := 5, rs := 6, imm := -2147483648 })).wellFormed = true := by decide

theorem test_mfc0_well_formed : Instr.mfc0.wellFormed = true := by decide

theorem test_ill_formed_malformed : (Instr.add .malformed).wellFormed = false := by decide

theorem test_ill_formed_above : (Instr.addi (.ok { rt := 5, rs := 6, imm := 2147483648 })).wellFormed = false := by
  decide

theorem test_ill_formed_below : (Instr.j (.ok { target := -2147483649 })).wellFormed = false := by decide

/-! ## Witnesses: states and operands that meet the hypotheses of a statement together -/

/-- `RomsBuilt`, for every statement with that hypothesis alone. -/
theorem witness_romsBuilt : RomsBuilt testParams testState := ⟨rfl, rfl⟩

theorem witness_EveryStepKeepsTheRunInvariant :
    Inv testParams (presenting "j 0") ∧ ∃ t, step (presenting "j 0") = .next t :=
  ⟨⟨⟨rfl, rfl⟩, fun h => (by cases h), rfl, rfl, rfl⟩, _, rfl⟩

theorem witness_NoStepWritesTheRoms : ∃ t, step testState = .next t := ⟨_, rfl⟩

theorem witness_StepRunsTheInstructionOfTheNextLine :
    (presenting "j 0").pipe.phase = .lines ∧
    nextLine (presenting "j 0").pipe.input = some (ascii ['j', ' ', '0'], []) ∧
    decodeLine (ascii ['j', ' ', '0']) = .instr (.j (.ok { target := 0 })) := by decide

theorem witness_StepRunsTheInstructionOfTheNextLine_unknown :
    (presenting "foo\n").pipe.phase = .lines ∧
    nextLine (presenting "foo\n").pipe.input = some (ascii ['f', 'o', 'o'], []) ∧
    decodeLine (ascii ['f', 'o', 'o']) = .rejected .unknownMnemonic := by decide

theorem witness_DecodedWordEncodesBack :
    decodeWordWith testOpen 0x03ff0018#32 = .instr (.mult (.ok { rs := 31, rt := 31 })) := by decide

theorem witness_EncodedWordDecodesToTheTruncatedInstruction :
    (Instr.addi (.ok { rt := -1, rs := 32, imm := 65536 })).mnemonic ∉
      [Mnemonic.rbit, .rev, .add8, .sadd, .ssub] ∧
    encodeWith testOpen (.addi (.ok { rt := -1, rs := 32, imm := 65536 })) = some 0x201f0000#32 := by decide

theorem witness_OpenCodeWordDecodesToTheTruncatedInstruction :
    OpenCodesDistinct testOpen ∧
    (Instr.rbit (.ok { rs := 4, rt := 5 })).mnemonic ∈ [Mnemonic.rbit, .rev, .add8, .sadd, .ssub] ∧
    encodeWith testOpen (.rbit (.ok { rs := 4, rt := 5 })) = some 0x00850030#32 := by
  refine ⟨?_, ?_, ?_⟩
  · unfold OpenCodesDistinct; decide
  · decide
  · decide

theorem witness_LineNamesItsInstruction :
    (Instr.lw (.ok { rt := 8, imm := -2147483648, rs := 2147483647 })).literalsInRange = true := by decide

theorem witness_FetchedWordIsEmitted : RomsBuilt Config.params State.reset ∧
    decodeTableWord 32 0x0bffffff = some (.j (.ok { target := 67108863 })) := ⟨⟨rfl, rfl⟩, by decide⟩

theorem witness_ExecEmitsTheTableWord : RomsBuilt (Params.withOpen testOpen) testState ∧
    encodeWith testOpen (.lui (.ok { rt := 2, imm := -1 })) = some 0x3c02ffff#32 := ⟨⟨rfl, rfl⟩, by decide⟩

theorem witness_Mfc0GivesTheDiagnostic : ascii ['m', 'f', 'c'] ≠ ascii ['m', 'f', 'c', '0'] := by decide

theorem witness_UnknownMnemonicEmitsTheThreeRegisterDefault :
    RomsBuilt testParams testState ∧ (∀ k : Mnemonic, k.text ≠ []) ∧
    parseRThree (ascii ['$', '1', ',', '$', '2', ',', '$', '3']) = .ok { rd := 1, rs := 2, rt := 3 } ∧
    parseRThree [] = .malformed :=
  ⟨⟨rfl, rfl⟩, fun k => by cases k <;> decide, by decide, by decide⟩

theorem witness_MalformedTextKeepsTheOpcode :
    RomsBuilt testParams testState ∧ (Instr.sw .malformed).parsed = false ∧ Mnemonic.sw ≠ .mfc0 :=
  ⟨⟨rfl, rfl⟩, by decide, by decide⟩

theorem witness_WellFormedResponseDependsOnTheRequestAlone :
    testState.opcRom = { testState with draws := 7, word := 1 }.opcRom ∧
    testState.fnRom = { testState with draws := 7, word := 1 }.fnRom := ⟨rfl, rfl⟩

theorem witness_RFormatPackerFillsItsFields : RomsBuilt testParams testState ∧ formatOf .ssub = .R :=
  ⟨⟨rfl, rfl⟩, rfl⟩

theorem witness_CongruentLiteralsGiveTheSameWord :
    (Instr.addi (.ok { rt := 8, rs := 0, imm := 65536 })).truncated =
      (Instr.addi (.ok { rt := -24, rs := 32, imm := 0 })).truncated := by decide

theorem witness_ShapeOfEveryByteString : ∀ k : Mnemonic, k.text ≠ ascii ['A', 'D', 'D'] := by
  intro k; cases k <;> decide

theorem witness_MissingEntryReadsZero :
    (∀ e ∈ ([(ascii ['j'], 2)] : Rom), e.1 ≠ ascii ['J']) ∧ RomsBuilt testParams testState ∧
    (∀ k : Mnemonic, k.text ≠ ascii ['J']) ∧ classifyFormat (ascii ['j']) ≠ .R :=
  ⟨by decide, ⟨rfl, rfl⟩, fun k => by cases k <;> decide, by decide⟩

/-- 2147483647 and 2147483648, the two sides of the range, before a comma; the whitespace bytes space and
CR; what follows a sign in `+`, `-x`, `+-5` and `-$`, and in `+ 5`, whose sign has a space after it; and the
texts `$` and ` -x`, which have no digit. -/
theorem witness_LiteralIsReadInTheSigned32BitRange :
    isDigit (byteOf '2') = true ∧ (∀ c ∈ ascii ['1', '4', '7', '4', '8', '3', '6', '4', '7'], isDigit c = true) ∧
    (∀ c, (ascii [',']).head? = some c → isDigit c = false) ∧
    decimalValue (ascii ['2', '1', '4', '7', '4', '8', '3', '6', '4', '7']) < 2 ^ 31 ∧
    decimalValue (ascii ['2', '1', '4', '7', '4', '8', '3', '6', '4', '8']) = 2 ^ 31 ∧
    (∀ c ∈ [space, 0x0D#8], isSpace c = true) ∧
    (byteOf '+' ∈ [byteOf '+', byteOf '-'] ∧ byteOf '-' ∈ [byteOf '+', byteOf '-']) ∧
    (∀ y ∈ [[], ascii ['x'], ascii ['-', '5'], ascii ['$']], ∀ c ∈ y.head?, isDigit c = false) ∧
    (∀ y ∈ [[], ascii ['x'], ascii ['$']], ∀ c ∈ y.head?,
      isDigit c = false ∧ isSpace c = false ∧ c ∉ [byteOf '+', byteOf '-']) ∧
    (∀ c ∈ ascii [' ', '-', 'x'], isDigit c = false) := by
  refine ⟨by decide, by decide, ?_, by decide, by decide, by decide, by decide, by decide, by decide, by decide⟩
  · intro c h; cases h; decide

/-- D6: no whitespace and no second sign between a sign and its digits; a sign alone is no literal. -/
theorem test_sign_needs_a_digit :
    readInt (ascii ['+', ' ', '5']) = .malformed ∧ readInt (ascii ['+', '-', '5']) = .malformed ∧
    readInt (ascii [' ', '+']) = .malformed ∧ readInt (ascii [' ', '+', '5']) = .ok (5, []) := by decide

/-- A missing comma, a wrong and a missing parenthesis (R47, R50) and a symbolic register (R46); and space before
a comma and after a $ sign. -/
theorem test_delimiters_are_exact :
    parseIArith (ascii ['$', '5', ' ', '$', '6', ' ', '1']) = .malformed ∧
    parseIMem (ascii ['$', '8', ',', '4', '[', '$', '9', ')']) = .malformed ∧
    parseIMem (ascii ['$', '8', ',', '4', '(', '$', '9']) = .malformed ∧
    parseRRs (ascii ['$', 't', '0']) = .malformed ∧
    parseIArith (ascii [' ', '$', ' ', '5', ' ', ',', '$', '6', ',', '+', '1']) =
      .ok { rt := 5, rs := 6, imm := 1 } := by decide

/-- jr and three registers before a comma; lw before a digit (R48). -/
theorem witness_TrailingTextIsIgnored :
    (Mnemonic.jr.instr (ascii ['$', '3', '1'])).parsed = true ∧
    (∀ c ∈ (ascii [',', ' ', '$', '1']).head?, isDigit c = false) ∧
    parseRThree (ascii ['$', '1', ',', '$', '2', ',', '$', '3']) = .ok { rd := 1, rs := 2, rt := 3 } ∧
    Mnemonic.lw ∈ [Mnemonic.lw, .sw, .mfc0] ∧
    (Mnemonic.lw.instr (ascii ['$', '8', ',', '4', '(', '$', '9', ')'])).parsed = true ∧
    (∃ c ∈ (ascii ['7']).head?, isDigit c = true) := by
  refine ⟨by decide, by decide, by decide, by decide, by decide, byteOf '7', rfl, by decide⟩

theorem witness_LeadingWhitespaceIsIgnored : 0x0D#8 ∈ [0x20#8, 0x09#8, 0x0A#8, 0x0B#8, 0x0C#8, 0x0D#8] := by decide

/-- Parameters whose OPEN codes are those of mult and add, a byte string outside the vocabulary, and register 32. -/
theorem witness_DistinctRequestsCanGiveOneWord :
    RomsBuilt (Params.withOpen { testOpen with rbit := 24, add8 := 32 })
      { testState with
        opcRom := opcRomContents (Params.withOpen { testOpen with rbit := 24, add8 := 32 })
        fnRom := fnRomContents (Params.withOpen { testOpen with rbit := 24, add8 := 32 }) } ∧
    (∀ k : Mnemonic, k.text ≠ ascii ['f', 'o', 'o']) ∧ (32 : Int) % 32 = 0 ∧
    (Params.withOpen { testOpen with rbit := 24, add8 := 32 }).openFn.rbit = 24 ∧
    (Params.withOpen { testOpen with rbit := 24, add8 := 32 }).openFn.add8 = 32 :=
  ⟨⟨rfl, rfl⟩, fun k => by cases k <;> decide, rfl, rfl, rfl⟩

theorem witness_HostReadsLinesAndSplitsAtTheFirstSpace :
    lineFeed ∉ ascii ['j', ' ', '0'] ∧ ascii ['j', ' ', '0'] ≠ [] ∧ space ∉ ascii ['j'] := by decide

theorem witness_HostStartsInOrder :
    testState.pipe.phase = .openInput ∧ testState.pipe.inputOpens = true ∧ testState.pipe.outputOpens = true ∧
    { testState.pipe with inputOpens := false }.inputOpens = false ∧
    { testState.pipe with outputOpens := false }.inputOpens = true ∧
    { testState.pipe with outputOpens := false }.outputOpens = false := ⟨rfl, rfl, rfl, rfl, rfl, rfl⟩

theorem witness_RunEndsOnlyAfterTheLastLine :
    (presenting "").pipe.phase = .lines ∧ (presenting "").pipe.input = [] ∧
    (presenting "j 0").pipe.phase = .lines ∧ (presenting "j 0").pipe.input ≠ [] ∧
    (∃ t, step (presenting "") = .next t ∧ t.pipe.phase = .ended) ∧
    (∃ t, step { testState with pipe := { testState.pipe with inputOpens := false } } = .next t ∧
      t.pipe.phase = .failed .inputNotOpened) :=
  ⟨rfl, rfl, rfl, by decide, ⟨_, rfl, rfl⟩, ⟨_, rfl, rfl⟩⟩

theorem witness_RunWritesOneLinePerInputLine :
    (presenting "j 0\n\nfoo").pipe.phase = .lines ∧ wholeLines (presenting "j 0\n\nfoo").pipe.output = true :=
  ⟨rfl, rfl⟩

theorem witness_RunOutputIsDeterminedByItsInput :
    RomsBuilt Config.params (State.reset.withText (ascii "rbit $4, $5\nmfc0\nfoo $1, $2, $3".toList)) ∧
    (State.reset.withText (ascii "rbit $4, $5\nmfc0\nfoo $1, $2, $3".toList)).pipe.phase = .lines ∧
    (∀ l ∈ linesOf (State.reset.withText (ascii "rbit $4, $5\nmfc0\nfoo $1, $2, $3".toList)).pipe.input,
      (determinedResponse (splitLine l)).isSome = true) :=
  ⟨⟨rfl, rfl⟩, rfl, by decide⟩

/-- Codes of which none, the first, the second or the third of add8, sadd and ssub is 0. -/
theorem witness_SampleWordsDecode :
    (testOpen.add8 ≠ 0 ∧ testOpen.sadd ≠ 0 ∧ testOpen.ssub ≠ 0) ∧ ({ testOpen with add8 := 0 } : OpenFuncts).add8 = 0 ∧
    ({ testOpen with sadd := 0 } : OpenFuncts).sadd = 0 ∧ ({ testOpen with ssub := 0 } : OpenFuncts).ssub = 0 := by
  decide

/-- A delimiter, whitespace, and bytes that are none: x in place of a delimiter, t after the $ sign. -/
theorem witness_DelimitersAndRegistersAreReadExactly :
    ',' ∈ ['$', ',', '(', ')'] ∧ (∀ b ∈ [space, 0x09#8], isSpace b = true) ∧
    (isSpace (byteOf 'x') = false ∧ byteOf 'x' ≠ byteOf ',' ∧ byteOf 'x' ≠ byteOf '$') ∧
    isDigit (byteOf 't') = false ∧ isSpace (byteOf 't') = false ∧ byteOf 't' ∉ [byteOf '+', byteOf '-'] := by
  decide

end Sys2Proof.Machine.Tests
end

section
/-! Proofs about the fields of a word (spec/30_encoding.md R33 to R38): what each field of a packed word
holds, and that the answer and the encoding see an operand only through its field.

A packer's word is a concatenation (`packI_eq_wordI` and its like), and a field reads `low n v` of its
literal, so putting `kept n v` in place of the literal changes no word. One lemma for each format carries
that through `answer*` and through `Parsed.word`; the case splits over `Instr` then only name the format. -/

namespace Sys2Proof.Machine

/-! ## Truncation -/

/-- R9: `low_N` is the residue modulo `2^N`, of a negative literal too. -/
theorem toNat_low (n : Nat) (v : Int) : ((low n v).toNat : Int) = v % (2 ^ n : Nat) := by
  have hpos : (0 : Int) < (2 ^ n : Nat) := by exact_mod_cast Nat.two_pow_pos n
  rw [low, BitVec.toNat_ofInt, Int.toNat_of_nonneg (Int.emod_nonneg v hpos.ne')]

theorem low_natCast (n v : Nat) : low n v = BitVec.ofNat n v := BitVec.ofInt_natCast n v

/-! ## The fields of a word -/

section
variable (opcode : BitVec 6) (rs rt imm target : Int)

theorem opcode_wordJ : (wordJ opcode target).extractLsb' 26 6 = opcode :=
  BitVec.extractLsb'_append_eq_left

theorem target_wordJ : (wordJ opcode target).extractLsb' 0 26 = low 26 target :=
  BitVec.extractLsb'_append_eq_right

theorem opcode_wordI : (wordI opcode rs rt imm).extractLsb' 26 6 = opcode := by
  rw [wordI, BitVec.extractLsb'_append_eq_of_le (by decide), BitVec.extractLsb'_append_eq_of_le (by decide),
    BitVec.extractLsb'_append_eq_left]

theorem rs_wordI : (wordI opcode rs rt imm).extractLsb' 21 5 = low 5 rs := by
  rw [wordI, BitVec.extractLsb'_append_eq_of_le (by decide), BitVec.extractLsb'_append_eq_of_le (by decide),
    BitVec.extractLsb'_append_eq_right]

theorem rt_wordI : (wordI opcode rs rt imm).extractLsb' 16 5 = low 5 rt := by
  rw [wordI, BitVec.extractLsb'_append_eq_of_le (by decide), BitVec.extractLsb'_append_eq_right]

theorem imm_wordI : (wordI opcode rs rt imm).extractLsb' 0 16 = low 16 imm :=
  BitVec.extractLsb'_append_eq_right

end

/-! ## A word keeps of a literal only its field's bits

These are stated from the literal to `kept`, so that the left side fixes the fields, and a field that the
multiplexer drives with 0 is its own `kept` by evaluation. -/

theorem wordJ_eq_kept (opcode : BitVec 6) (target : Int) :
    wordJ opcode target = wordJ opcode (kept 26 target) := by
  simp only [wordJ, low_kept]

theorem wordI_eq_kept (opcode : BitVec 6) (rs rt imm : Int) :
    wordI opcode rs rt imm = wordI opcode (kept 5 rs) (kept 5 rt) (kept 16 imm) := by
  simp only [wordI, low_kept]

theorem wordR_eq_kept (rs rt rd shamt : Int) (funct : BitVec 6) :
    wordR rs rt rd shamt funct = wordR (kept 5 rs) (kept 5 rt) (kept 5 rd) (kept 5 shamt) funct := by
  simp only [wordR, low_kept]

theorem packJ_eq_kept (opc : Nat) (f : JFields) : packJ opc f = packJ opc { target := kept 26 f.target } := by
  simp only [packJ, low_kept]

theorem packI_eq_kept (opc : Nat) (f : IFields) :
    packI opc f = packI opc { rs := kept 5 f.rs, rt := kept 5 f.rt, imm := kept 16 f.imm } := by
  simp only [packI, low_kept]

theorem packR_eq_kept (opc : Nat) (f : RFields) (fn : Nat) :
    packR opc f fn =
      packR opc { rs := kept 5 f.rs, rt := kept 5 f.rt, rd := kept 5 f.rd, shamt := kept 5 f.shamt } fn := by
  simp only [packR, low_kept]

/-! ## A change of operands that keeps the packed word keeps the answer -/

section
variable {α : Type} {g : α → α} (m : Text) (ops : Parsed α) (s : State)

theorem word_map_eq {f : α → Word} (h : ∀ o, f o = f (g o)) : (ops.map g).word f = ops.word f := by
  cases ops with
  | ok o => exact congrArg some (h o).symm
  | malformed => rfl

theorem answerJ_map_eq {mux : α → JFields} (h : ∀ opc o, packJ opc (mux o) = packJ opc (mux (g o))) :
    answerJ m ((ops.map g).map mux) s = answerJ m (ops.map mux) s := by
  cases ops with
  | ok o => simp only [Parsed.map, answerJ_ok, ← h]
  | malformed => rfl

theorem answerI_map_eq {mux : α → IFields} (h : ∀ opc o, packI opc (mux o) = packI opc (mux (g o))) :
    answerI m ((ops.map g).map mux) s = answerI m (ops.map mux) s := by
  cases ops with
  | ok o => simp only [Parsed.map, answerI_ok, ← h]
  | malformed => rfl

theorem answerR_map_eq {mux : α → RFields}
    (h : ∀ opc fn o, packR opc (mux o) fn = packR opc (mux (g o)) fn) :
    answerR m ((ops.map g).map mux) s = answerR m (ops.map mux) s := by
  cases ops with
  | ok o => simp only [Parsed.map, answerR_ok, ← h]
  | malformed => rfl

end

/-- R38: an instruction and its truncation have the same answer. -/
theorem exec_truncated (i : Instr) (s : State) : exec i.truncated s = exec i s := by
  cases i with
  | mfc0 => rfl
  | j ops | jal ops => exact answerJ_map_eq _ ops s fun _ _ => packJ_eq_kept _ _
  | addi ops | addiu ops | andi ops | ori ops | lw ops | sw ops | lui ops | beq ops | bne ops
  | slti ops | sltiu ops => exact answerI_map_eq _ ops s fun _ _ => packI_eq_kept _ _
  | add ops | sub ops | addu ops | subu ops | mult ops | multu ops | div ops | divu ops | mfhi ops
  | mflo ops | and ops | or ops | sll ops | srl ops | slt ops | sltu ops | jr ops | rbit ops | rev ops
  | add8 ops | sadd ops | ssub ops => exact answerR_map_eq _ ops s fun _ _ _ => packR_eq_kept _ _ _

/-- R38: an instruction and its truncation have the same word. -/
theorem encodeWith_truncated (f : OpenFuncts) (i : Instr) : encodeWith f i.truncated = encodeWith f i := by
  cases i with
  | mfc0 => rfl
  | j ops | jal ops => exact word_map_eq ops fun _ => wordJ_eq_kept _ _
  | addi ops | addiu ops | andi ops | ori ops | lw ops | sw ops | lui ops | beq ops | bne ops
  | slti ops | sltiu ops => exact word_map_eq ops fun _ => wordI_eq_kept _ _ _ _
  | add ops | sub ops | addu ops | subu ops | mult ops | multu ops | div ops | divu ops | mfhi ops
  | mflo ops | and ops | or ops | sll ops | srl ops | slt ops | sltu ops | jr ops | rbit ops | rev ops
  | add8 ops | sadd ops | ssub ops => exact word_map_eq ops fun _ => wordR_eq_kept _ _ _ _ _

/-! ## The obligations -/

/-- Settles O34: both the answer and the word factor through the truncated instruction. -/
theorem congruentLiteralsGiveTheSameWord : Obligations.CongruentLiteralsGiveTheSameWord := by
  refine ⟨toNat_low, ?congruent, ?answered, encodeWith_truncated, packJ_eq_wordJ, packI_eq_wordI,
    fun opc fn f => packR_eq opc f fn⟩
  case congruent =>
    intro i k s h
    rw [← exec_truncated i, ← exec_truncated k, h]
  case answered =>
    intro i s
    obtain ⟨t, ht, -⟩ := (exec_emits i s).unchanged
    exact ⟨t, ht⟩

/-- Settles O32, by reading the fields of the concatenation that `packI` is. -/
theorem iFormatPackerFillsItsFields : Obligations.IFormatPackerFillsItsFields := by
  intro opc f
  rw [packI_eq_wordI, ← low_natCast]
  exact ⟨opcode_wordI .., rs_wordI .., rt_wordI .., imm_wordI ..⟩

/-- Settles O33, by reading the fields of the concatenation that `packJ` is. -/
theorem jFormatPackerFillsItsFields : Obligations.JFormatPackerFillsItsFields := by
  intro opc f
  rw [packJ_eq_wordJ, ← low_natCast]
  exact ⟨opcode_wordJ .., target_wordJ ..⟩

end Sys2Proof.Machine
end

section
/-! Proofs about the host (spec/30_encoding.md R64, R65, spec/60_exceptions.md R111,
spec/70_reset_and_hazards.md R115, R118): what one step can do, the invariant it keeps, the frame of a
request, the order of start-up and the end of a run.

`Stepped` says once what a step that answers a next state has done; the invariant and the frame are case
splits over it. -/

namespace Sys2Proof.Machine

/-! ## What a step can do -/

/-- `Stepped s t`: the acts of the host by which a step leads from `s` to `t` (R115, R28, R118). -/
inductive Stepped (s : State) : State → Prop where
  | inputOpened (hp : s.pipe.phase = .openInput) (ho : s.pipe.inputOpens = true) :
      Stepped s { s with pipe := { s.pipe with phase := .openOutput, inputHeld := true } }
  | inputFailed (hp : s.pipe.phase = .openInput) (ho : s.pipe.inputOpens = false) :
      Stepped s (s.failIo .inputNotOpened)
  | outputOpened (hp : s.pipe.phase = .openOutput) (ho : s.pipe.outputOpens = true) :
      Stepped s { s with pipe := { s.pipe with phase := .lines, outputHeld := true } }
  | outputFailed (hp : s.pipe.phase = .openOutput) (ho : s.pipe.outputOpens = false) :
      Stepped s (s.failIo .outputNotOpened)
  | answered (hp : s.pipe.phase = .lines) {line rest : Text} (hn : nextLine s.pipe.input = some (line, rest))
      {u : State} (hu : answer (splitLine line) (s.withInput rest) = .next u) : Stepped s u.writeLine
  | runEnded (hp : s.pipe.phase = .lines) (hi : s.pipe.input = []) : Stepped s s.endRun

theorem step_of_inputOpens {s : State} (hp : s.pipe.phase = .openInput) (ho : s.pipe.inputOpens = true) :
    step s = .next { s with pipe := { s.pipe with phase := .openOutput, inputHeld := true } } := by
  rw [step, hp]; exact congrArg _ (if_pos ho)

theorem step_of_not_inputOpens {s : State} (hp : s.pipe.phase = .openInput) (ho : s.pipe.inputOpens = false) :
    step s = .next (s.failIo .inputNotOpened) := by
  rw [step, hp]; exact congrArg _ (if_neg (by simp [ho]))

theorem step_of_outputOpens {s : State} (hp : s.pipe.phase = .openOutput) (ho : s.pipe.outputOpens = true) :
    step s = .next { s with pipe := { s.pipe with phase := .lines, outputHeld := true } } := by
  rw [step, hp]; exact congrArg _ (if_pos ho)

theorem step_of_not_outputOpens {s : State} (hp : s.pipe.phase = .openOutput)
    (ho : s.pipe.outputOpens = false) : step s = .next (s.failIo .outputNotOpened) := by
  rw [step, hp]; exact congrArg _ (if_neg (by simp [ho]))

theorem step_lines {s : State} (hp : s.pipe.phase = .lines) : step s = stepLines s := by
  rw [step, hp]

theorem step_ended {s : State} (hp : s.pipe.phase = .ended) : step s = .fault .runEnded := by
  rw [step, hp]

theorem step_failed {s : State} {e : FatalIo} (hp : s.pipe.phase = .failed e) :
    step s = .fault (.fatalIo e) := by
  rw [step, hp]

/-- A line that is read is presented. -/
theorem step_of_nextLine {s : State} {line rest : Text} (hp : s.pipe.phase = .lines)
    (hn : nextLine s.pipe.input = some (line, rest)) : step s = presentLine line rest s := by
  rw [step_lines hp, stepLines, hn]

/-- With no input left the run ends (R118). -/
theorem step_of_input_nil {s : State} (hp : s.pipe.phase = .lines) (hi : s.pipe.input = []) :
    step s = .next s.endRun := by
  rw [step_lines hp, stepLines, hi]; rfl

/-- The inversion of `step`. -/
theorem stepped_of_step {s t : State} (h : step s = .next t) : Stepped s t := by
  cases hp : s.pipe.phase with
  | openInput =>
    cases ho : s.pipe.inputOpens with
    | true => cases (step_of_inputOpens hp ho).symm.trans h; exact .inputOpened hp ho
    | false => cases (step_of_not_inputOpens hp ho).symm.trans h; exact .inputFailed hp ho
  | openOutput =>
    cases ho : s.pipe.outputOpens with
    | true => cases (step_of_outputOpens hp ho).symm.trans h; exact .outputOpened hp ho
    | false => cases (step_of_not_outputOpens hp ho).symm.trans h; exact .outputFailed hp ho
  | lines =>
    cases hn : nextLine s.pipe.input with
    | none =>
      have hi := (nextLine_eq_none _).mp hn
      cases (step_of_input_nil hp hi).symm.trans h; exact .runEnded hp hi
    | some next =>
      obtain ⟨u, hu, -, hstep⟩ := step_line hp hn
      cases hstep.symm.trans h; exact .answered hp hn hu
  | ended => cases (step_ended hp).symm.trans h
  | failed e => cases (step_failed hp).symm.trans h

/-! ## The frame of an answer, and of a step -/

/-- A request that is answered has driven the ports, and nothing else. -/
theorem unchanged_of_answer {r : Request} {s t : State} (h : answer r s = .next t) : Unchanged s t := by
  obtain ⟨u, hu, hc⟩ := (answer_emits r s).unchanged
  rw [hu] at h; cases h; exact hc

/-- A diagnostic that an answer gives is MFC0_DIAG (R103). -/
theorem diagText_of_answer {r : Request} {s t : State} (h : answer r s = .next t) (hd : t.diagValid = true) :
    t.diagText = Config.mfc0Diag := by
  obtain ⟨w, hw⟩ | hw := answer_emits r s
  · rw [hw] at h; cases h; cases hd
  · rw [hw] at h; cases h; rfl

/-- R22: no step writes a ROM. -/
theorem Stepped.roms {s t : State} (h : Stepped s t) : t.opcRom = s.opcRom ∧ t.fnRom = s.fnRom := by
  cases h with
  | answered hp hn hu =>
    obtain ⟨hopc, hfn, -⟩ := unchanged_of_answer hu
    exact ⟨hopc, hfn⟩
  | inputOpened | inputFailed | outputOpened | outputFailed | runEnded => exact ⟨rfl, rfl⟩

/-! ## The invariant -/

theorem wholeLines_append_lineFeed (t : Text) : wholeLines (t ++ [lineFeed]) = true := by
  simp [wholeLines]

/-- The files held at each phase (R111), as facts about the two bits. -/
theorem heldAsPhase_iff (p : Pipeline) : heldAsPhase p = true ↔
    p.inputHeld = decide (p.phase = .openOutput ∨ p.phase = .lines) ∧
    p.outputHeld = decide (p.phase = .lines) := by
  cases hp : p.phase <;> simp [heldAsPhase, hp]

/-- No report and no status stand while no fatal I/O error has occurred (R111). -/
theorem failureAsPhase_iff {p : Pipeline} (hp : ∀ e, p.phase ≠ .failed e) :
    failureAsPhase p = true ↔ p.reports = [] ∧ p.exitStatus = none := by
  cases h : p.phase with
  | failed e => exact absurd h (hp e)
  | openInput | openOutput | lines | ended => simp [failureAsPhase, h]

section
variable {p : Params} {s : State}

/-- Stopping at a fatal I/O error keeps the invariant, where the run had not failed before. -/
theorem Inv.failIo (h : Inv p s) (hp : ∀ e, s.pipe.phase ≠ .failed e) (e : FatalIo) : Inv p (s.failIo e) where
  roms := h.roms
  diag := h.diag
  held := rfl
  failure := by
    obtain ⟨hreports, -⟩ := (failureAsPhase_iff hp).mp h.failure
    simp [failureAsPhase, hreports, Config.failStatus]
  output := h.output

/-- A change of phase that is no failure keeps the invariant, where it holds the files of the new phase. -/
theorem Inv.enter (h : Inv p s) (hp : ∀ e, s.pipe.phase ≠ .failed e) (next : Phase)
    (hnext : ∀ e, next ≠ .failed e)
    (i o : Bool) (hheld : heldAsPhase { s.pipe with phase := next, inputHeld := i, outputHeld := o } = true) :
    Inv p { s with pipe := { s.pipe with phase := next, inputHeld := i, outputHeld := o } } where
  roms := h.roms
  diag := h.diag
  held := hheld
  failure := (failureAsPhase_iff hnext).mpr ((failureAsPhase_iff hp).mp h.failure)
  output := h.output

/-- An answered line keeps the invariant: the answer drives the ports only, and the line ends with LF. -/
theorem Inv.answered (h : Inv p s) {r : Request} {rest : Text} {u : State}
    (hu : answer r (s.withInput rest) = .next u) : Inv p u.writeLine := by
  obtain ⟨hopc, hfn, hpipe⟩ := unchanged_of_answer hu
  have hdiag := diagText_of_answer hu
  exact
    { roms := ⟨hopc.trans h.roms.1, hfn.trans h.roms.2⟩
      diag := hdiag
      held := by rw [writeLine_pipe, hpipe]; exact h.held
      failure := by rw [writeLine_pipe, hpipe]; exact h.failure
      output := wholeLines_append_lineFeed _ }

end

/-- Settles O3, by the cases of `Stepped`. -/
theorem everyStepKeepsTheRunInvariant : Obligations.EveryStepKeepsTheRunInvariant := by
  intro p s s' h hstep
  obtain ⟨hi, ho⟩ := (heldAsPhase_iff _).mp h.held
  cases stepped_of_step hstep with
  | inputOpened hp =>
    exact h.enter (by simp [hp]) .openOutput (by simp) true _ (by simp [heldAsPhase, ho, hp])
  | inputFailed hp => exact h.failIo (by simp [hp]) _
  | outputOpened hp => exact h.enter (by simp [hp]) .lines (by simp) _ true (by simp [heldAsPhase, hi, hp])
  | outputFailed hp => exact h.failIo (by simp [hp]) _
  | answered hp hn hu => exact h.answered hu
  | runEnded hp => exact h.enter (by simp [hp]) .ended (by simp) false false rfl

/-- Settles O4: an answer emits one response, and `Stepped` has no case that writes a ROM. -/
theorem noStepWritesTheRoms : Obligations.NoStepWritesTheRoms :=
  ⟨fun i s => (exec_emits i s).unchanged, fun r s => (answer_emits r s).unchanged,
    fun _ _ h => (stepped_of_step h).roms⟩

/-! ## Reset, one line, start-up and the end of a run -/

/-- Settles O1, by evaluating the reset state. -/
theorem resetBuildsTheRoms : Obligations.ResetBuildsTheRoms := ⟨⟨rfl, rfl⟩, rfl, rfl, rfl, rfl⟩

/-- Settles O2: no diagnostic, no file, no report and no output stand at reset. -/
theorem resetMeetsTheRunInvariant : Obligations.ResetMeetsTheRunInvariant where
  roms := ⟨rfl, rfl⟩
  diag := fun h => absurd h Bool.false_ne_true
  held := rfl
  failure := rfl
  output := rfl

theorem answer_of_instr {r : Request} {i : Instr} (h : decodeRequest r = .instr i) (s : State) :
    answer r s = exec i s := by rw [answer, h]

theorem answer_of_rejected {r : Request} {why : Reject} (h : decodeRequest r = .rejected why) (s : State) :
    answer r s = execUnknown r.mnem (parseRThree r.opnd) s := by rw [answer, h]

/-- Settles O5: a step presents the line, and the answer goes by what the line decodes to. -/
theorem stepRunsTheInstructionOfTheNextLine : Obligations.StepRunsTheInstructionOfTheNextLine := by
  intro s line rest hp hn
  rw [step_of_nextLine hp hn, presentLine]
  exact ⟨fun i hi => congrArg writeAnswer (answer_of_instr hi _),
    fun why hw => congrArg writeAnswer (answer_of_rejected hw _)⟩

theorem response_text (s : State) : s.response.text = if s.diagValid then s.diagText else hexWord s.word := by
  rw [State.response]; split <;> rfl

/-- Settles O6, by what `State.writeLine` updates. -/
theorem writtenLineIsTheResponse : Obligations.WrittenLineIsTheResponse := by
  intro t
  exact ⟨t.writeLine, rfl, by rw [writeLine_pipe, response_text], rfl, rfl, rfl, rfl, rfl⟩

/-- Settles O46: one step for each opening, and a step after a failure is its fault. -/
theorem hostStartsInOrder : Obligations.HostStartsInOrder := by
  intro s hp
  exact ⟨fun hi ho => ⟨_, _, step_of_inputOpens hp hi, step_of_outputOpens rfl ho, rfl⟩,
    fun hi => ⟨_, Config.failStatusPred _, step_of_not_inputOpens hp hi, rfl, step_failed rfl⟩,
    fun hi ho => ⟨_, _, Config.failStatusPred _, step_of_inputOpens hp hi, rfl,
      step_of_not_outputOpens rfl ho, rfl, step_failed rfl⟩⟩

/-- Settles O47: the only step out of presenting lines is the one with no input left. -/
theorem runEndsOnlyAfterTheLastLine : Obligations.RunEndsOnlyAfterTheLastLine := by
  refine ⟨fun s hp hi => ?ends, fun s hp hi => ?presents, fun s t h => ?reached⟩
  case ends => exact ⟨s.endRun, step_of_input_nil hp hi, rfl, step_ended rfl⟩
  case presents =>
    obtain ⟨⟨line, rest⟩, hn⟩ := Option.ne_none_iff_exists'.mp (mt (nextLine_eq_none _).mp hi)
    obtain ⟨u, -, ⟨-, -, hpipe⟩, hstep⟩ := step_line hp hn
    refine ⟨_, hstep, ?_, ?_⟩
    · simp [hpipe, hp]
    · simpa [hpipe] using nextLine_length hn
  case reached =>
    cases stepped_of_step h with
    | inputOpened hp | inputFailed hp | outputOpened hp | outputFailed hp => simp [hp]
    | answered hp hn hu =>
      obtain ⟨-, -, hpipe⟩ := unchanged_of_answer hu
      simp [hpipe, hp]
    | runEnded hp hi => simp [hp, hi]

end Sys2Proof.Machine
end

section
/-! Proofs about the table of words (spec/opcode_table.json, spec/30_encoding.md R31 to R33, R61, R62): what
each of its masks tests, that every row's words are the encoder's, and that no word fits two rows.

A word is its fields side by side (`ext_fieldsR`, `ext_fieldsI`), so a masked word is compared field by field.
The table has seven masks; each gets a row constructor (`rowOpcode` to `rowRs`), with one lemma for what the
mask tests and two for its rows: the word of the row's instruction is the word (`Row.Sound`), and the row names
each word the encoder lays out (`Row.Names`). -/

namespace Sys2Proof.Machine

/-! ## A word is its fields -/

/-- Words that agree in two neighbouring fields agree in the field that the two make up. -/
theorem extract_join {w v : Word} {lo n m : Nat} (hlo : w.extractLsb' lo n = v.extractLsb' lo n)
    (hhi : w.extractLsb' (lo + n) m = v.extractLsb' (lo + n) m) :
    w.extractLsb' lo (m + n) = v.extractLsb' lo (m + n) := by
  rw [← BitVec.extractLsb'_append_extractLsb'_eq_extractLsb' rfl,
    ← BitVec.extractLsb'_append_extractLsb'_eq_extractLsb' rfl, hlo, hhi]

theorem ext_fieldsI {w v : Word} : w = v ↔
    w.extractLsb' 26 6 = v.extractLsb' 26 6 ∧ w.extractLsb' 21 5 = v.extractLsb' 21 5 ∧
    w.extractLsb' 16 5 = v.extractLsb' 16 5 ∧ w.extractLsb' 0 16 = v.extractLsb' 0 16 := by
  constructor
  · rintro rfl; exact ⟨rfl, rfl, rfl, rfl⟩
  · rintro ⟨hop, hrs, hrt, himm⟩
    have h := extract_join himm (extract_join hrt (extract_join hrs hop))
    rwa [BitVec.extractLsb'_eq_self, BitVec.extractLsb'_eq_self] at h

theorem ext_fieldsR {w v : Word} : w = v ↔
    w.extractLsb' 26 6 = v.extractLsb' 26 6 ∧ w.extractLsb' 21 5 = v.extractLsb' 21 5 ∧
    w.extractLsb' 16 5 = v.extractLsb' 16 5 ∧ w.extractLsb' 11 5 = v.extractLsb' 11 5 ∧
    w.extractLsb' 6 5 = v.extractLsb' 6 5 ∧ w.extractLsb' 0 6 = v.extractLsb' 0 6 := by
  constructor
  · rintro rfl; exact ⟨rfl, rfl, rfl, rfl, rfl, rfl⟩
  · rintro ⟨hop, hrs, hrt, hrd, hshamt, hfn⟩
    have h := extract_join hfn (extract_join hshamt (extract_join hrd (extract_join hrt
      (extract_join hrs hop))))
    rwa [BitVec.extractLsb'_eq_self, BitVec.extractLsb'_eq_self] at h

/-- The six R-format fields, side by side, are read back (R32). -/
theorem fields_append (op : BitVec 6) (a b c d : BitVec 5) (e : BitVec 6) :
    (op ++ a ++ b ++ c ++ d ++ e : Word).extractLsb' 26 6 = op ∧
    (op ++ a ++ b ++ c ++ d ++ e : Word).extractLsb' 21 5 = a ∧
    (op ++ a ++ b ++ c ++ d ++ e : Word).extractLsb' 16 5 = b ∧
    (op ++ a ++ b ++ c ++ d ++ e : Word).extractLsb' 11 5 = c ∧
    (op ++ a ++ b ++ c ++ d ++ e : Word).extractLsb' 6 5 = d ∧
    (op ++ a ++ b ++ c ++ d ++ e : Word).extractLsb' 0 6 = e := by
  refine ⟨?_, ?_, ?_, ?_, ?_, BitVec.extractLsb'_append_eq_right⟩ <;>
    simp (disch := decide) only [BitVec.extractLsb'_append_eq_of_le, BitVec.extractLsb'_append_eq_right,
      BitVec.extractLsb'_eq_self, Nat.reduceSub]

section
variable (rs rt rd shamt : Int) (fn : BitVec 6)

theorem fields_wordR : (wordR rs rt rd shamt fn).extractLsb' 26 6 = 0 ∧
    (wordR rs rt rd shamt fn).extractLsb' 21 5 = low 5 rs ∧ (wordR rs rt rd shamt fn).extractLsb' 16 5 = low 5 rt ∧
    (wordR rs rt rd shamt fn).extractLsb' 11 5 = low 5 rd ∧
    (wordR rs rt rd shamt fn).extractLsb' 6 5 = low 5 shamt ∧ (wordR rs rt rd shamt fn).extractLsb' 0 6 = fn :=
  fields_append ..

theorem opcode_wordR : (wordR rs rt rd shamt fn).extractLsb' 26 6 = 0 :=
  have ⟨h, _, _, _, _, _⟩ := fields_wordR rs rt rd shamt fn; h

theorem rs_wordR : (wordR rs rt rd shamt fn).extractLsb' 21 5 = low 5 rs :=
  have ⟨_, h, _, _, _, _⟩ := fields_wordR rs rt rd shamt fn; h

theorem rt_wordR : (wordR rs rt rd shamt fn).extractLsb' 16 5 = low 5 rt :=
  have ⟨_, _, h, _, _, _⟩ := fields_wordR rs rt rd shamt fn; h

theorem rd_wordR : (wordR rs rt rd shamt fn).extractLsb' 11 5 = low 5 rd :=
  have ⟨_, _, _, h, _, _⟩ := fields_wordR rs rt rd shamt fn; h

theorem shamt_wordR : (wordR rs rt rd shamt fn).extractLsb' 6 5 = low 5 shamt :=
  have ⟨_, _, _, _, h, _⟩ := fields_wordR rs rt rd shamt fn; h

theorem funct_wordR : (wordR rs rt rd shamt fn).extractLsb' 0 6 = fn :=
  have ⟨_, _, _, _, _, h⟩ := fields_wordR rs rt rd shamt fn; h

end

theorem low_zero (n : Nat) : low n 0 = 0#n := low_natCast n 0

/-! ## What the table's masks test -/

theorem and_63 (x : BitVec 6) : x &&& 63#6 = x := BitVec.and_allOnes
theorem and_31 (x : BitVec 5) : x &&& 31#5 = x := BitVec.and_allOnes

section
variable {w : Word} {op fn : BitVec 6}

theorem matches_opcode : w &&& 0xfc000000#32 = wordI op 0 0 0 ↔ w.extractLsb' 26 6 = op := by
  simp [ext_fieldsI, BitVec.extractLsb'_and, opcode_wordI, rs_wordI, rt_wordI, imm_wordI, low_zero, and_63]

theorem matches_lui : w &&& 0xffe00000#32 = wordI op 0 0 0 ↔
    w.extractLsb' 26 6 = op ∧ w.extractLsb' 21 5 = 0 := by
  simp [ext_fieldsI, BitVec.extractLsb'_and, opcode_wordI, rs_wordI, rt_wordI, imm_wordI, low_zero, and_63,
    and_31]

/-- The R-format masks, field by field: a field that the mask leaves out is not tested. -/
theorem and_eq_wordR (m : Word) : w &&& m = wordR 0 0 0 0 fn ↔
    w.extractLsb' 26 6 &&& m.extractLsb' 26 6 = 0 ∧ w.extractLsb' 21 5 &&& m.extractLsb' 21 5 = 0 ∧
    w.extractLsb' 16 5 &&& m.extractLsb' 16 5 = 0 ∧ w.extractLsb' 11 5 &&& m.extractLsb' 11 5 = 0 ∧
    w.extractLsb' 6 5 &&& m.extractLsb' 6 5 = 0 ∧ w.extractLsb' 0 6 &&& m.extractLsb' 0 6 = fn := by
  simp [ext_fieldsR, BitVec.extractLsb'_and, opcode_wordR, rs_wordR, rt_wordR, rd_wordR, shamt_wordR,
    funct_wordR, low_zero]

theorem matches_three : w &&& 0xfc0007ff#32 = wordR 0 0 0 0 fn ↔
    w.extractLsb' 26 6 = 0 ∧ w.extractLsb' 6 5 = 0 ∧ w.extractLsb' 0 6 = fn := by
  simp [and_eq_wordR, and_63, and_31]

theorem matches_rsRt : w &&& 0xfc00ffff#32 = wordR 0 0 0 0 fn ↔ w.extractLsb' 26 6 = 0 ∧
    w.extractLsb' 11 5 = 0 ∧ w.extractLsb' 6 5 = 0 ∧ w.extractLsb' 0 6 = fn := by
  simp [and_eq_wordR, and_63, and_31]

theorem matches_rd : w &&& 0xffff07ff#32 = wordR 0 0 0 0 fn ↔ w.extractLsb' 26 6 = 0 ∧
    w.extractLsb' 21 5 = 0 ∧ w.extractLsb' 16 5 = 0 ∧ w.extractLsb' 6 5 = 0 ∧ w.extractLsb' 0 6 = fn := by
  simp [and_eq_wordR, and_63, and_31]

theorem matches_shift : w &&& 0xffe0003f#32 = wordR 0 0 0 0 fn ↔
    w.extractLsb' 26 6 = 0 ∧ w.extractLsb' 21 5 = 0 ∧ w.extractLsb' 0 6 = fn := by
  simp [and_eq_wordR, and_63, and_31]

theorem matches_rs : w &&& 0xfc1fffff#32 = wordR 0 0 0 0 fn ↔ w.extractLsb' 26 6 = 0 ∧
    w.extractLsb' 16 5 = 0 ∧ w.extractLsb' 11 5 = 0 ∧ w.extractLsb' 6 5 = 0 ∧ w.extractLsb' 0 6 = fn := by
  simp [and_eq_wordR, and_63, and_31]

end

/-! ## The rows of the table, by mask -/

/-- The row of the word's opcode alone. -/
def rowOpcode {α : Type} (op : BitVec 6) (ofWord : Word → α) (mk : Parsed α → Instr) : Row :=
  { mask := 0xfc000000#32, pattern := wordI op 0 0 0, build := fun w => mk (.ok (ofWord w)) }

/-- The row of shape I_LUI. -/
def rowLui (op : BitVec 6) (mk : Parsed ILui → Instr) : Row :=
  { mask := 0xffe00000#32, pattern := wordI op 0 0 0, build := fun w => mk (.ok (.ofWord w)) }

/-- The row of shape R_THREE. -/
def rowThree (fn : BitVec 6) (mk : Parsed RThree → Instr) : Row :=
  { mask := 0xfc0007ff#32, pattern := wordR 0 0 0 0 fn, build := fun w => mk (.ok (.ofWord w)) }

/-- The row of shape R_RSRT. -/
def rowRsRt (fn : BitVec 6) (mk : Parsed RRsRt → Instr) : Row :=
  { mask := 0xfc00ffff#32, pattern := wordR 0 0 0 0 fn, build := fun w => mk (.ok (.ofWord w)) }

/-- The row of shape R_RD. -/
def rowRd (fn : BitVec 6) (mk : Parsed RRd → Instr) : Row :=
  { mask := 0xffff07ff#32, pattern := wordR 0 0 0 0 fn, build := fun w => mk (.ok (.ofWord w)) }

/-- The row of shape R_SHIFT. -/
def rowShift (fn : BitVec 6) (mk : Parsed RShift → Instr) : Row :=
  { mask := 0xffe0003f#32, pattern := wordR 0 0 0 0 fn, build := fun w => mk (.ok (.ofWord w)) }

/-- The row of shape R_RS. -/
def rowRs (fn : BitVec 6) (mk : Parsed RRs → Instr) : Row :=
  { mask := 0xfc1fffff#32, pattern := wordR 0 0 0 0 fn, build := fun w => mk (.ok (.ofWord w)) }

theorem rowsJI_eq : rowsJI =
    [rowOpcode 2 JTarget.ofWord .j, rowOpcode 3 JTarget.ofWord .jal, rowOpcode 8 IArith.ofWord .addi,
      rowOpcode 9 IArith.ofWord .addiu, rowOpcode 12 IArith.ofWord .andi, rowOpcode 13 IArith.ofWord .ori,
      rowOpcode 35 IMem.ofWord .lw, rowOpcode 43 IMem.ofWord .sw, rowLui 15 .lui,
      rowOpcode 4 IArith.ofWord .beq, rowOpcode 5 IArith.ofWord .bne, rowOpcode 10 IArith.ofWord .slti,
      rowOpcode 11 IArith.ofWord .sltiu] := rfl

theorem rowsR_eq : rowsR =
    [rowThree 32 .add, rowThree 34 .sub, rowThree 33 .addu, rowThree 35 .subu, rowRsRt 24 .mult,
      rowRsRt 25 .multu, rowRsRt 26 .div, rowRsRt 27 .divu, rowRd 16 .mfhi, rowRd 18 .mflo, rowThree 36 .and,
      rowThree 37 .or, rowShift 0 .sll, rowShift 2 .srl, rowThree 42 .slt, rowThree 43 .sltu, rowRs 8 .jr] := rfl

theorem place_zero_eq_wordR (fn : BitVec 6) : place fn 0 = wordR 0 0 0 0 fn := by
  revert fn; decide

theorem rowsOpen_eq (f : OpenFuncts) : rowsOpen f =
    [rowRsRt f.rbit .rbit, rowRsRt f.rev .rev, rowThree f.add8 .add8, rowThree f.sadd .sadd,
      rowThree f.ssub .ssub] := by
  simp only [rowsOpen, place_zero_eq_wordR]; rfl

/-! ## The instruction a row reads from a word has that word -/

/-- Every word that fits the row is the word of the instruction that the row builds. -/
def SoundRow (f : OpenFuncts) (r : Row) : Prop :=
  ∀ w, w &&& r.mask = r.pattern → encodeWith f (r.build w) = some w

section
variable {w : Word} {op fn : BitVec 6} {rs rt rd shamt imm target : Int}

theorem wordJ_eq_of_fields (hop : w.extractLsb' 26 6 = op) (htarget : low 26 target = w.extractLsb' 0 26) :
    wordJ op target = w := by
  have h := extract_join ((target_wordJ op target).trans htarget) ((opcode_wordJ op target).trans hop.symm)
  rwa [BitVec.extractLsb'_eq_self, BitVec.extractLsb'_eq_self] at h

theorem wordI_eq_of_fields (hop : w.extractLsb' 26 6 = op) (hrs : low 5 rs = w.extractLsb' 21 5)
    (hrt : low 5 rt = w.extractLsb' 16 5) (himm : low 16 imm = w.extractLsb' 0 16) :
    wordI op rs rt imm = w := by
  simp [ext_fieldsI, opcode_wordI, rs_wordI, rt_wordI, imm_wordI, *]

theorem wordR_eq_of_fields (hop : w.extractLsb' 26 6 = 0) (hrs : low 5 rs = w.extractLsb' 21 5)
    (hrt : low 5 rt = w.extractLsb' 16 5) (hrd : low 5 rd = w.extractLsb' 11 5)
    (hshamt : low 5 shamt = w.extractLsb' 6 5) (hfn : w.extractLsb' 0 6 = fn) :
    wordR rs rt rd shamt fn = w := by
  simp [ext_fieldsR, opcode_wordR, rs_wordR, rt_wordR, rd_wordR, shamt_wordR, funct_wordR, *]

variable {f : OpenFuncts}

theorem sound_jTarget {mk : Parsed JTarget → Instr}
    (h : ∀ o, encodeWith f (mk (.ok o)) = some (wordJ op o.target)) :
    SoundRow f (rowOpcode op JTarget.ofWord mk) := by
  intro w hw
  exact (h _).trans (congrArg some (wordJ_eq_of_fields (matches_opcode.mp hw) (low_fieldOf ..)))

/-- Shapes I_ARITH and I_MEM, which have their operands in the same fields. -/
theorem sound_iFields {α : Type} {ofWord : Word → α} {mk : Parsed α → Instr}
    (h : ∀ w, encodeWith f (mk (.ok (ofWord w))) =
      some (wordI op (fieldOf w 21 5) (fieldOf w 16 5) (fieldOf w 0 16))) :
    SoundRow f (rowOpcode op ofWord mk) := by
  intro w hw
  exact (h w).trans (congrArg some (wordI_eq_of_fields (matches_opcode.mp hw) (low_fieldOf ..)
    (low_fieldOf ..) (low_fieldOf ..)))

theorem sound_iLui {mk : Parsed ILui → Instr}
    (h : ∀ o, encodeWith f (mk (.ok o)) = some (wordI op 0 o.rt o.imm)) : SoundRow f (rowLui op mk) := by
  intro w hw
  obtain ⟨hop, hrs⟩ := matches_lui.mp hw
  exact (h _).trans (congrArg some (wordI_eq_of_fields hop hrs.symm (low_fieldOf ..) (low_fieldOf ..)))

theorem sound_rThree {mk : Parsed RThree → Instr}
    (h : ∀ o, encodeWith f (mk (.ok o)) = some (wordR o.rs o.rt o.rd 0 fn)) : SoundRow f (rowThree fn mk) := by
  intro w hw
  obtain ⟨hop, hshamt, hfn⟩ := matches_three.mp hw
  exact (h _).trans (congrArg some (wordR_eq_of_fields hop (low_fieldOf ..) (low_fieldOf ..)
    (low_fieldOf ..) hshamt.symm hfn))

theorem sound_rRsRt {mk : Parsed RRsRt → Instr}
    (h : ∀ o, encodeWith f (mk (.ok o)) = some (wordR o.rs o.rt 0 0 fn)) : SoundRow f (rowRsRt fn mk) := by
  intro w hw
  obtain ⟨hop, hrd, hshamt, hfn⟩ := matches_rsRt.mp hw
  exact (h _).trans (congrArg some (wordR_eq_of_fields hop (low_fieldOf ..) (low_fieldOf ..)
    hrd.symm hshamt.symm hfn))

theorem sound_rRd {mk : Parsed RRd → Instr}
    (h : ∀ o, encodeWith f (mk (.ok o)) = some (wordR 0 0 o.rd 0 fn)) : SoundRow f (rowRd fn mk) := by
  intro w hw
  obtain ⟨hop, hrs, hrt, hshamt, hfn⟩ := matches_rd.mp hw
  exact (h _).trans (congrArg some (wordR_eq_of_fields hop hrs.symm hrt.symm (low_fieldOf ..)
    hshamt.symm hfn))

theorem sound_rShift {mk : Parsed RShift → Instr}
    (h : ∀ o, encodeWith f (mk (.ok o)) = some (wordR 0 o.rt o.rd o.shamt fn)) :
    SoundRow f (rowShift fn mk) := by
  intro w hw
  obtain ⟨hop, hrs, hfn⟩ := matches_shift.mp hw
  exact (h _).trans (congrArg some (wordR_eq_of_fields hop hrs.symm (low_fieldOf ..) (low_fieldOf ..)
    (low_fieldOf ..) hfn))

theorem sound_rRs {mk : Parsed RRs → Instr}
    (h : ∀ o, encodeWith f (mk (.ok o)) = some (wordR o.rs 0 0 0 fn)) : SoundRow f (rowRs fn mk) := by
  intro w hw
  obtain ⟨hop, hrt, hrd, hshamt, hfn⟩ := matches_rs.mp hw
  exact (h _).trans (congrArg some (wordR_eq_of_fields hop (low_fieldOf ..) hrt.symm hrd.symm
    hshamt.symm hfn))

theorem sound_rowsJI : ∀ r ∈ rowsJI, SoundRow f r := by
  simp only [rowsJI_eq, List.forall_mem_cons]
  exact ⟨sound_jTarget fun _ => rfl, sound_jTarget fun _ => rfl, sound_iFields fun _ => rfl,
    sound_iFields fun _ => rfl, sound_iFields fun _ => rfl, sound_iFields fun _ => rfl,
    sound_iFields fun _ => rfl, sound_iFields fun _ => rfl, sound_iLui fun _ => rfl, sound_iFields fun _ => rfl,
    sound_iFields fun _ => rfl, sound_iFields fun _ => rfl, sound_iFields fun _ => rfl,
    List.forall_mem_nil _⟩

theorem sound_rowsR : ∀ r ∈ rowsR, SoundRow f r := by
  simp only [rowsR_eq, List.forall_mem_cons]
  exact ⟨sound_rThree fun _ => rfl, sound_rThree fun _ => rfl, sound_rThree fun _ => rfl,
    sound_rThree fun _ => rfl, sound_rRsRt fun _ => rfl, sound_rRsRt fun _ => rfl, sound_rRsRt fun _ => rfl,
    sound_rRsRt fun _ => rfl, sound_rRd fun _ => rfl, sound_rRd fun _ => rfl, sound_rThree fun _ => rfl,
    sound_rThree fun _ => rfl, sound_rShift fun _ => rfl, sound_rShift fun _ => rfl, sound_rThree fun _ => rfl,
    sound_rThree fun _ => rfl, sound_rRs fun _ => rfl, List.forall_mem_nil _⟩

theorem sound_rowsOpen : ∀ r ∈ rowsOpen f, SoundRow f r := by
  simp only [rowsOpen_eq, List.forall_mem_cons]
  exact ⟨sound_rRsRt fun _ => rfl, sound_rRsRt fun _ => rfl, sound_rThree fun _ => rfl,
    sound_rThree fun _ => rfl, sound_rThree fun _ => rfl, List.forall_mem_nil _⟩

end

/-- What the decoder gives is what a row that the word fits builds (R61). -/
theorem row_of_decodeWordWith {f : OpenFuncts} {w : Word} {i : Instr} (h : decodeWordWith f w = .instr i) :
    ∃ r ∈ rows f, w &&& r.mask = r.pattern ∧ r.build w = i := by
  unfold decodeWordWith at h
  split at h
  next r hr =>
    cases h
    exact ⟨r, List.mem_of_find?_eq_some hr, by simpa using List.find?_some hr, rfl⟩
  next => cases h

/-- Settles O7: the decoder's answer comes from a row, and every row is sound. -/
theorem decodedWordEncodesBack : Obligations.DecodedWordEncodesBack := by
  intro f w i h
  obtain ⟨r, hr, hw, rfl⟩ := row_of_decodeWordWith h
  rw [rows, List.mem_append, List.mem_append] at hr
  obtain (hr | hr) | hr := hr
  · exact sound_rowsJI r hr w hw
  · exact sound_rowsR r hr w hw
  · exact sound_rowsOpen r hr w hw

/-! ## No word fits two rows -/

/-- No word fits both rows. -/
def DisjointRows (r₁ r₂ : Row) : Prop := ∀ w, w &&& r₁.mask = r₁.pattern → w &&& r₂.mask ≠ r₂.pattern

theorem DisjointRows.symm {r₁ r₂ : Row} (h : DisjointRows r₁ r₂) : DisjointRows r₂ r₁ :=
  fun w h₂ h₁ => h w h₁ h₂

/-- A word that fits a row which tests all bits of a field has the row's value there. -/
theorem field_of_fits {r : Row} {w : Word} {lo len : Nat} (hw : w &&& r.mask = r.pattern)
    (hm : r.mask.extractLsb' lo len = BitVec.allOnes len) :
    w.extractLsb' lo len = r.pattern.extractLsb' lo len := by
  rw [← hw, BitVec.extractLsb'_and, hm, BitVec.and_allOnes]

/-- Rows that test all bits of a field and ask for different values there are disjoint. -/
theorem disjointRows_of_field {r₁ r₂ : Row} (lo len : Nat)
    (h₁ : r₁.mask.extractLsb' lo len = BitVec.allOnes len)
    (h₂ : r₂.mask.extractLsb' lo len = BitVec.allOnes len)
    (hne : r₁.pattern.extractLsb' lo len ≠ r₂.pattern.extractLsb' lo len) : DisjointRows r₁ r₂ :=
  fun _ hw₁ hw₂ => hne ((field_of_fits hw₁ h₁).symm.trans (field_of_fits hw₂ h₂))

theorem pairwise_disjointRows {l : List Row} (lo len : Nat)
    (hm : ∀ r ∈ l, r.mask.extractLsb' lo len = BitVec.allOnes len)
    (hl : (l.map fun r => r.pattern.extractLsb' lo len).Nodup) : l.Pairwise DisjointRows :=
  (List.pairwise_map.mp hl).imp_of_mem fun h₁ h₂ => disjointRows_of_field lo len (hm _ h₁) (hm _ h₂)

theorem opcode_mask_rowsJI : ∀ r ∈ rowsJI, r.mask.extractLsb' 26 6 = BitVec.allOnes 6 := by decide

theorem opcode_rowsJI : ∀ r ∈ rowsJI, r.pattern.extractLsb' 26 6 ≠ 0 := by decide

/-- Every R-format row tests the opcode, for 0. -/
theorem opcode_rowsR (f : OpenFuncts) : ∀ r ∈ rowsOpen f ++ rowsR,
    r.mask.extractLsb' 26 6 = BitVec.allOnes 6 ∧ r.pattern.extractLsb' 26 6 = 0 := by
  rw [List.forall_mem_append, rowsOpen_eq]
  refine ⟨?_, by decide⟩
  simp only [List.forall_mem_cons, rowRsRt, rowThree, opcode_wordR]
  decide

theorem funct_mask_rowsR (f : OpenFuncts) : ∀ r ∈ rowsOpen f ++ rowsR,
    r.mask.extractLsb' 0 6 = BitVec.allOnes 6 := by
  rw [List.forall_mem_append, rowsOpen_eq]
  refine ⟨?_, by decide⟩
  simp only [List.forall_mem_cons, rowRsRt, rowThree]
  decide

/-- R62: where the OPEN codes are distinct, the table's R-format rows are disjoint. -/
theorem pairwise_rowsOpen_rowsR {f : OpenFuncts} (h : OpenCodesDistinct f) :
    (rowsOpen f ++ rowsR).Pairwise DisjointRows := by
  refine pairwise_disjointRows 0 6 (funct_mask_rowsR f) ?_
  have hcodes : ((rowsOpen f ++ rowsR).map fun r => r.pattern.extractLsb' 0 6) =
      [f.rbit, f.rev, f.add8, f.sadd, f.ssub] ++
        [32, 34, 33, 35, 24, 25, 26, 27, 16, 18, 36, 37, 0, 2, 42, 43, 8] := by
    rw [rowsOpen_eq, List.map_append]
    simp only [List.map_cons, List.map_nil, rowRsRt, rowThree, funct_wordR]
    rfl
  rw [hcodes]
  exact h

/-- The rows of the other formats ask for other opcodes than the R-format rows. -/
theorem disjoint_rowsJI {f : OpenFuncts} : ∀ a ∈ rowsJI, ∀ b ∈ rowsOpen f ++ rowsR, DisjointRows a b := by
  intro a ha b hb
  obtain ⟨hmask, hop⟩ := opcode_rowsR f b hb
  exact disjointRows_of_field 26 6 (opcode_mask_rowsJI a ha) hmask (hop ▸ opcode_rowsJI a ha)

theorem pairwise_rowsJI : rowsJI.Pairwise DisjointRows :=
  pairwise_disjointRows 26 6 opcode_mask_rowsJI (by decide)

/-- The rows whose codes the spec gives are disjoint, whatever the OPEN codes are. -/
theorem pairwise_given : (rowsJI ++ rowsR).Pairwise DisjointRows := by
  have hR : rowsR.Pairwise DisjointRows :=
    pairwise_disjointRows 0 6 (fun r hr => funct_mask_rowsR default r (List.mem_append_right _ hr)) (by decide)
  exact List.pairwise_append.mpr ⟨pairwise_rowsJI, hR,
    fun a ha b hb => disjoint_rowsJI (f := default) a ha b (List.mem_append_right _ hb)⟩

/-- R62: where the OPEN codes are distinct, no word has two names. -/
theorem pairwise_rows {f : OpenFuncts} (h : OpenCodesDistinct f) : (rows f).Pairwise DisjointRows := by
  have hR : (rowsR ++ rowsOpen f).Pairwise DisjointRows :=
    (List.pairwise_append_comm fun hab => hab.symm).mp (pairwise_rowsOpen_rowsR h)
  rw [rows, List.append_assoc]
  exact List.pairwise_append.mpr ⟨pairwise_rowsJI, hR,
    fun a ha b hb => disjoint_rowsJI (f := f) a ha b (List.perm_append_comm.mem_iff.mp hb)⟩

/-- Of disjoint rows the decoder finds the one that the word fits, wherever it stands. -/
theorem find?_of_disjoint {l : List Row} {r : Row} {w : Word} (hl : l.Pairwise DisjointRows) (hr : r ∈ l)
    (hw : w &&& r.mask = r.pattern) : l.find? (fun r => decide (w &&& r.mask = r.pattern)) = some r := by
  induction l with
  | nil => cases hr
  | cons a l ih =>
    obtain ⟨ha, hl⟩ := List.pairwise_cons.mp hl
    obtain rfl | hr := List.mem_cons.mp hr
    · simp [hw]
    · have hne : w &&& a.mask ≠ a.pattern := fun hwa => ha r hr w hwa hw
      simp [hne, ih hl hr]

/-! ## The decoder finds the row of an encoded word -/

/-- The row names the word as this instruction. -/
def Names (r : Row) (w : Word) (i : Instr) : Prop := w &&& r.mask = r.pattern ∧ r.build w = i

theorem decode_of_given {f : OpenFuncts} {w : Word} {i : Instr}
    (h : ∃ r ∈ rowsJI ++ rowsR, Names r w i) : decodeWordWith f w = .instr i := by
  obtain ⟨r, hr, hw, rfl⟩ := h
  rw [decodeWordWith, rows, List.find?_append, find?_of_disjoint pairwise_given hr hw]
  rfl

theorem decode_of_distinct {f : OpenFuncts} {w : Word} {i : Instr} (hf : OpenCodesDistinct f)
    (h : ∃ r ∈ rowsOpen f, Names r w i) : decodeWordWith f w = .instr i := by
  obtain ⟨r, hr, hw, rfl⟩ := h
  rw [decodeWordWith, find?_of_disjoint (pairwise_rows hf) (List.mem_append_right _ hr) hw]

/-- A field that holds the low bits of a literal is read as what it keeps of it. -/
theorem fieldOf_eq_kept {w : Word} {lo n : Nat} {v : Int} (h : w.extractLsb' lo n = low n v) :
    fieldOf w lo n = kept n v := by
  rw [fieldOf, h, kept]

/-- A row names the word of parsed operands, if it names every word of its shape. -/
theorem names_of_word {α : Type} {r : Row} {enc : α → Word} {trunc : α → α} {mk : Parsed α → Instr}
    {ops : Parsed α} {w : Word} (hn : ∀ o, Names r (enc o) (mk (.ok (trunc o)))) (h : ops.word enc = some w) :
    Names r w (mk (ops.map trunc)) := by
  cases ops with
  | ok o => cases h; exact hn o
  | malformed => cases h

section
variable {op fn : BitVec 6}

theorem names_jTarget {mk : Parsed JTarget → Instr} (o : JTarget) :
    Names (rowOpcode op JTarget.ofWord mk) (wordJ op o.target) (mk (.ok o.truncated)) := by
  refine ⟨matches_opcode.mpr (opcode_wordJ ..), ?_⟩
  simp only [rowOpcode, JTarget.ofWord, fieldOf_eq_kept (target_wordJ ..), JTarget.truncated]

theorem names_iArith {mk : Parsed IArith → Instr} (o : IArith) :
    Names (rowOpcode op IArith.ofWord mk) (wordI op o.rs o.rt o.imm) (mk (.ok o.truncated)) := by
  refine ⟨matches_opcode.mpr (opcode_wordI ..), ?_⟩
  simp only [rowOpcode, IArith.ofWord, fieldOf_eq_kept (rs_wordI ..), fieldOf_eq_kept (rt_wordI ..),
    fieldOf_eq_kept (imm_wordI ..), IArith.truncated]

theorem names_iMem {mk : Parsed IMem → Instr} (o : IMem) :
    Names (rowOpcode op IMem.ofWord mk) (wordI op o.rs o.rt o.imm) (mk (.ok o.truncated)) := by
  refine ⟨matches_opcode.mpr (opcode_wordI ..), ?_⟩
  simp only [rowOpcode, IMem.ofWord, fieldOf_eq_kept (rs_wordI ..), fieldOf_eq_kept (rt_wordI ..),
    fieldOf_eq_kept (imm_wordI ..), IMem.truncated]

theorem names_iLui {mk : Parsed ILui → Instr} (o : ILui) :
    Names (rowLui op mk) (wordI op 0 o.rt o.imm) (mk (.ok o.truncated)) := by
  refine ⟨matches_lui.mpr ⟨opcode_wordI .., rs_wordI ..⟩, ?_⟩
  simp only [rowLui, ILui.ofWord, fieldOf_eq_kept (rt_wordI ..), fieldOf_eq_kept (imm_wordI ..),
    ILui.truncated]

theorem names_rThree {mk : Parsed RThree → Instr} (o : RThree) :
    Names (rowThree fn mk) (wordR o.rs o.rt o.rd 0 fn) (mk (.ok o.truncated)) := by
  refine ⟨matches_three.mpr ⟨opcode_wordR .., shamt_wordR .., funct_wordR ..⟩, ?_⟩
  simp only [rowThree, RThree.ofWord, fieldOf_eq_kept (rs_wordR ..), fieldOf_eq_kept (rt_wordR ..),
    fieldOf_eq_kept (rd_wordR ..), RThree.truncated]

theorem names_rRsRt {mk : Parsed RRsRt → Instr} (o : RRsRt) :
    Names (rowRsRt fn mk) (wordR o.rs o.rt 0 0 fn) (mk (.ok o.truncated)) := by
  refine ⟨matches_rsRt.mpr ⟨opcode_wordR .., rd_wordR .., shamt_wordR .., funct_wordR ..⟩, ?_⟩
  simp only [rowRsRt, RRsRt.ofWord, fieldOf_eq_kept (rs_wordR ..), fieldOf_eq_kept (rt_wordR ..),
    RRsRt.truncated]

theorem names_rRd {mk : Parsed RRd → Instr} (o : RRd) :
    Names (rowRd fn mk) (wordR 0 0 o.rd 0 fn) (mk (.ok o.truncated)) := by
  refine ⟨matches_rd.mpr ⟨opcode_wordR .., rs_wordR .., rt_wordR .., shamt_wordR .., funct_wordR ..⟩, ?_⟩
  simp only [rowRd, RRd.ofWord, fieldOf_eq_kept (rd_wordR ..), RRd.truncated]

theorem names_rShift {mk : Parsed RShift → Instr} (o : RShift) :
    Names (rowShift fn mk) (wordR 0 o.rt o.rd o.shamt fn) (mk (.ok o.truncated)) := by
  refine ⟨matches_shift.mpr ⟨opcode_wordR .., rs_wordR .., funct_wordR ..⟩, ?_⟩
  simp only [rowShift, RShift.ofWord, fieldOf_eq_kept (rt_wordR ..), fieldOf_eq_kept (rd_wordR ..),
    fieldOf_eq_kept (shamt_wordR ..), RShift.truncated]

theorem names_rRs {mk : Parsed RRs → Instr} (o : RRs) :
    Names (rowRs fn mk) (wordR o.rs 0 0 0 fn) (mk (.ok o.truncated)) := by
  refine ⟨matches_rs.mpr ⟨opcode_wordR .., rt_wordR .., rd_wordR .., shamt_wordR .., funct_wordR ..⟩, ?_⟩
  simp only [rowRs, RRs.ofWord, fieldOf_eq_kept (rs_wordR ..), RRs.truncated]

end

/-- Settles O8: the row of the instruction is in the table, and the given rows are disjoint. -/
theorem encodedWordDecodesToTheTruncatedInstruction :
    Obligations.EncodedWordDecodesToTheTruncatedInstruction := by
  intro f i w hi h
  apply decode_of_given
  rw [rowsJI_eq, rowsR_eq]
  cases i with
  | j ops | jal ops => exact ⟨_, by simp, names_of_word names_jTarget h⟩
  | addi ops | addiu ops | andi ops | ori ops | beq ops | bne ops | slti ops | sltiu ops =>
    exact ⟨_, by simp, names_of_word names_iArith h⟩
  | lw ops | sw ops => exact ⟨_, by simp, names_of_word names_iMem h⟩
  | lui ops => exact ⟨_, by simp, names_of_word names_iLui h⟩
  | add ops | sub ops | addu ops | subu ops | and ops | or ops | slt ops | sltu ops =>
    exact ⟨_, by simp, names_of_word names_rThree h⟩
  | mult ops | multu ops | div ops | divu ops => exact ⟨_, by simp, names_of_word names_rRsRt h⟩
  | mfhi ops | mflo ops => exact ⟨_, by simp, names_of_word names_rRd h⟩
  | sll ops | srl ops => exact ⟨_, by simp, names_of_word names_rShift h⟩
  | jr ops => exact ⟨_, by simp, names_of_word names_rRs h⟩
  | mfc0 => cases h
  | rbit ops | rev ops | add8 ops | sadd ops | ssub ops => exact absurd (by simp [Instr.mnemonic]) hi

/-- Settles O9: the row of the instruction is among the OPEN ones, and the table's rows are disjoint. -/
theorem openCodeWordDecodesToTheTruncatedInstruction :
    Obligations.OpenCodeWordDecodesToTheTruncatedInstruction := by
  intro f i w hf hi h
  apply decode_of_distinct hf
  rw [rowsOpen_eq]
  cases i with
  | rbit ops | rev ops => exact ⟨_, by simp, names_of_word names_rRsRt h⟩
  | add8 ops | sadd ops | ssub ops => exact ⟨_, by simp, names_of_word names_rThree h⟩
  | _ => simp [Instr.mnemonic] at hi

/-! ## Sample words -/

/-- A word that fits no given row is named by the OPEN rows, in their order. -/
theorem decode_of_not_given {f : OpenFuncts} {w : Word}
    (h : ∀ r ∈ rowsJI ++ rowsR, w &&& r.mask ≠ r.pattern) :
    decodeWordWith f w = (((rowsOpen f).find? fun r => decide (w &&& r.mask = r.pattern)).map
      fun r => .instr (r.build w)).getD (.rejected .wordNotInTable) := by
  have hnone : (rowsJI ++ rowsR).find? (fun r => decide (w &&& r.mask = r.pattern)) = none :=
    List.find?_eq_none.mpr fun r hr => by simpa using h r hr
  rw [decodeWordWith, rows, List.find?_append, hnone, Option.none_or]
  cases (rowsOpen f).find? fun r => decide (w &&& r.mask = r.pattern) <;> rfl

/-- R62: three registers with function code 0 have the name of the first OPEN code that is 0, if one is. -/
theorem decode_three_funct_zero (f : OpenFuncts) : decodeWordWith f 0x00430800#32 =
    if f.add8 = 0 then .instr (.add8 (.ok { rd := 1, rs := 2, rt := 3 }))
    else if f.sadd = 0 then .instr (.sadd (.ok { rd := 1, rs := 2, rt := 3 }))
    else if f.ssub = 0 then .instr (.ssub (.ok { rd := 1, rs := 2, rt := 3 }))
    else .rejected .wordNotInTable := by
  have hrsRt (fn : BitVec 6) (mk) : 0x00430800#32 &&& (rowRsRt fn mk).mask ≠ (rowRsRt fn mk).pattern :=
    fun h => have ⟨_, hrd, _, _⟩ := matches_rsRt.mp h; absurd hrd (by decide)
  have hthree (fn : BitVec 6) (mk) :
      0x00430800#32 &&& (rowThree fn mk).mask = (rowThree fn mk).pattern ↔ fn = 0 :=
    matches_three.trans ⟨fun ⟨_, _, hfn⟩ => hfn.symm, fun h => ⟨by decide, by decide, h.symm⟩⟩
  rw [decode_of_not_given (by decide), rowsOpen_eq]
  simp only [List.find?_cons, List.find?_nil, hrsRt, hthree]
  split_ifs with h8 hs hb
  · simp only [h8, decide_true]; rfl
  · simp only [h8, hs, decide_true, decide_false]; rfl
  · simp only [h8, hs, hb, decide_true, decide_false]; rfl
  · simp only [h8, hs, hb, decide_false]; rfl

/-- Settles O50, by evaluating the decoder on the words of the given rows. -/
theorem sampleWordsDecode : Obligations.SampleWordsDecode := by
  intro f
  rw [decode_three_funct_zero]
  refine ⟨rfl, rfl, rfl, rfl, rfl, fun h8 hs hb => ?_, fun h8 => ?_, fun h8 hs => ?_, fun h8 hs hb => ?_⟩
  · rw [if_neg h8, if_neg hs, if_neg hb]
  · rw [if_pos h8]
  · rw [if_neg h8, if_pos hs]
  · rw [if_neg h8, if_neg hs, if_pos hb]

end Sys2Proof.Machine
end

section
/-! Proofs about text (spec/30_encoding.md R44 to R57, R63, R64): the line written for an instruction names it,
each shape's tokens are read in order, and what stands before, between and after the tokens. -/

namespace Sys2Proof.Machine

/-! ## The line of an instruction -/

/-- A shape's parser reads back the text written for parsed operands, the malformed ones included, whose text
is empty (R48). -/
theorem parse_text {α : Type} {parse : Text → Parsed α} {text : α → Text} {literals : α → List Int}
    (hok : ∀ o, (literals o).all inLitRange = true → parse (text o) = .ok o) (hnil : parse [] = .malformed)
    {ops : Parsed α} (h : (ops.literals literals).all inLitRange = true) : parse (ops.text text) = ops := by
  cases ops with
  | ok o => exact hok o h
  | malformed => exact hnil

/-- The operand text written for an instruction is parsed to its operands. -/
theorem instr_operandText {i : Instr} (h : i.literalsInRange = true) :
    i.mnemonic.instr i.operandText = i := by
  cases i with
  | mfc0 => rfl
  | j ops | jal ops => exact congrArg _ (parse_text parseJTarget_text rfl h)
  | addi ops | addiu ops | andi ops | ori ops | beq ops | bne ops | slti ops | sltiu ops =>
    exact congrArg _ (parse_text parseIArith_text rfl h)
  | lw ops | sw ops => exact congrArg _ (parse_text parseIMem_text rfl h)
  | lui ops => exact congrArg _ (parse_text parseILui_text rfl h)
  | add ops | sub ops | addu ops | subu ops | and ops | or ops | slt ops | sltu ops | add8 ops | sadd ops
  | ssub ops => exact congrArg _ (parse_text parseRThree_text rfl h)
  | mult ops | multu ops | div ops | divu ops | rbit ops | rev ops =>
    exact congrArg _ (parse_text parseRRsRt_text rfl h)
  | mfhi ops | mflo ops => exact congrArg _ (parse_text parseRRd_text rfl h)
  | sll ops | srl ops => exact congrArg _ (parse_text parseRShift_text rfl h)
  | jr ops => exact congrArg _ (parse_text parseRRs_text rfl h)

theorem decodeRequest_text (m : Mnemonic) (t : Text) :
    decodeRequest { mnem := m.text, opnd := t } = .instr (m.instr t) := by
  rw [decodeRequest, lookupMnemonic_text]

/-- Settles O10: the line splits into mnemonic and operand text, and both are read back. -/
theorem lineNamesItsInstruction : Obligations.LineNamesItsInstruction := by
  intro i h
  rw [decodeLine, splitLine_line, decodeRequest_text, instr_operandText h]

/-! ## The tokens of each shape, in order -/

/-- A register, its comma and what comes after them are read in this order. -/
theorem bind_readRegComma {α : Type} {t : Text} {f : Int × Text → Parsed α} {o : α} :
    (readRegComma t).bind f = .ok o ↔
      ∃ v a b, readReg t = .ok (v, a) ∧ readLit a ',' = .ok b ∧ f (v, b) = .ok o := by
  simp only [bind_eq_ok, Prod.exists, readRegComma_eq_ok]
  constructor
  · rintro ⟨v, b, ⟨a, hreg, hcomma⟩, hf⟩; exact ⟨v, a, b, hreg, hcomma, hf⟩
  · rintro ⟨v, a, b, hreg, hcomma, hf⟩; exact ⟨v, b, ⟨a, hreg, hcomma⟩, hf⟩

section
variable (t : Text)

theorem parseJTarget_eq_ok (o : JTarget) : parseJTarget t = .ok o ↔ ∃ a, readInt t = .ok (o.target, a) := by
  cases o; simp [parseJTarget, map_eq_ok]

theorem parseIMem_eq_ok (o : IMem) : parseIMem t = .ok o ↔ ∃ a b c d e f,
    readReg t = .ok (o.rt, a) ∧ readLit a ',' = .ok b ∧ readInt b = .ok (o.imm, c) ∧
    readLit c '(' = .ok d ∧ readReg d = .ok (o.rs, e) ∧ readLit e ')' = .ok f := by
  rw [parseIMem, bind_readRegComma]
  simp only [bind_eq_ok, map_eq_ok, Prod.exists]
  constructor
  · rintro ⟨_, a, b, hrt, hcomma, _, c, himm, d, hopen, _, e, hrs, f, hclose, rfl⟩
    exact ⟨a, b, c, d, e, f, hrt, hcomma, himm, hopen, hrs, hclose⟩
  · rintro ⟨a, b, c, d, e, f, hrt, hcomma, himm, hopen, hrs, hclose⟩
    exact ⟨_, a, b, hrt, hcomma, _, c, himm, d, hopen, _, e, hrs, f, hclose, rfl⟩

theorem parseILui_eq_ok (o : ILui) : parseILui t = .ok o ↔ ∃ a b c,
    readReg t = .ok (o.rt, a) ∧ readLit a ',' = .ok b ∧ readInt b = .ok (o.imm, c) := by
  simp only [parseILui, bind_readRegComma, map_eq_ok, Prod.exists]
  constructor
  · rintro ⟨_, a, b, hrt, hcomma, _, c, himm, rfl⟩; exact ⟨a, b, c, hrt, hcomma, himm⟩
  · rintro ⟨a, b, c, hrt, hcomma, himm⟩; exact ⟨_, a, b, hrt, hcomma, _, c, himm, rfl⟩

theorem parseIArith_eq_ok (o : IArith) : parseIArith t = .ok o ↔ ∃ a b c d e,
    readReg t = .ok (o.rt, a) ∧ readLit a ',' = .ok b ∧ readReg b = .ok (o.rs, c) ∧
    readLit c ',' = .ok d ∧ readInt d = .ok (o.imm, e) := by
  simp only [parseIArith, bind_readRegComma, map_eq_ok, Prod.exists]
  constructor
  · rintro ⟨_, a, b, hrt, hcomma, _, c, d, hrs, hcomma', _, e, himm, rfl⟩
    exact ⟨a, b, c, d, e, hrt, hcomma, hrs, hcomma', himm⟩
  · rintro ⟨a, b, c, d, e, hrt, hcomma, hrs, hcomma', himm⟩
    exact ⟨_, a, b, hrt, hcomma, _, c, d, hrs, hcomma', _, e, himm, rfl⟩

theorem parseRRs_eq_ok (o : RRs) : parseRRs t = .ok o ↔ ∃ a, readReg t = .ok (o.rs, a) := by
  cases o; simp [parseRRs, map_eq_ok]

theorem parseRRd_eq_ok (o : RRd) : parseRRd t = .ok o ↔ ∃ a, readReg t = .ok (o.rd, a) := by
  cases o; simp [parseRRd, map_eq_ok]

theorem parseRRsRt_eq_ok (o : RRsRt) : parseRRsRt t = .ok o ↔ ∃ a b c,
    readReg t = .ok (o.rs, a) ∧ readLit a ',' = .ok b ∧ readReg b = .ok (o.rt, c) := by
  simp only [parseRRsRt, bind_readRegComma, map_eq_ok, Prod.exists]
  constructor
  · rintro ⟨_, a, b, hrs, hcomma, _, c, hrt, rfl⟩; exact ⟨a, b, c, hrs, hcomma, hrt⟩
  · rintro ⟨a, b, c, hrs, hcomma, hrt⟩; exact ⟨_, a, b, hrs, hcomma, _, c, hrt, rfl⟩

theorem parseRShift_eq_ok (o : RShift) : parseRShift t = .ok o ↔ ∃ a b c d e,
    readReg t = .ok (o.rd, a) ∧ readLit a ',' = .ok b ∧ readReg b = .ok (o.rt, c) ∧
    readLit c ',' = .ok d ∧ readInt d = .ok (o.shamt, e) := by
  simp only [parseRShift, bind_readRegComma, map_eq_ok, Prod.exists]
  constructor
  · rintro ⟨_, a, b, hrd, hcomma, _, c, d, hrt, hcomma', _, e, hshamt, rfl⟩
    exact ⟨a, b, c, d, e, hrd, hcomma, hrt, hcomma', hshamt⟩
  · rintro ⟨a, b, c, d, e, hrd, hcomma, hrt, hcomma', hshamt⟩
    exact ⟨_, a, b, hrd, hcomma, _, c, d, hrt, hcomma', _, e, hshamt, rfl⟩

theorem parseRThree_eq_ok (o : RThree) : parseRThree t = .ok o ↔ ∃ a b c d e,
    readReg t = .ok (o.rd, a) ∧ readLit a ',' = .ok b ∧ readReg b = .ok (o.rs, c) ∧
    readLit c ',' = .ok d ∧ readReg d = .ok (o.rt, e) := by
  simp only [parseRThree, bind_readRegComma, map_eq_ok, Prod.exists]
  constructor
  · rintro ⟨_, a, b, hrd, hcomma, _, c, d, hrs, hcomma', _, e, hrt, rfl⟩
    exact ⟨a, b, c, d, e, hrd, hcomma, hrs, hcomma', hrt⟩
  · rintro ⟨a, b, c, d, e, hrd, hcomma, hrs, hcomma', hrt⟩
    exact ⟨_, a, b, hrd, hcomma, _, c, d, hrs, hcomma', _, e, hrt, rfl⟩

end

/-- Settles O52: a sequence of reads succeeds exactly when each does on what the one before it left. -/
theorem shapesReadTheirTokensInOrder : Obligations.ShapesReadTheirTokensInOrder :=
  ⟨parseJTarget_eq_ok, parseIMem_eq_ok, parseILui_eq_ok, parseIArith_eq_ok, parseRRs_eq_ok, parseRRd_eq_ok,
    parseRRsRt_eq_ok, parseRShift_eq_ok, parseRThree_eq_ok⟩

/-! ## Whitespace before a token: a read sees its text after the whitespace only -/

section
variable {t t' : Text} (h : skipSpace t = skipSpace t')
include h

theorem readInt_congr : readInt t = readInt t' := by rw [readInt, h]; rfl

theorem readLit_congr (c : Char) : readLit t c = readLit t' c := by rw [readLit, h]; rfl

theorem readReg_congr : readReg t = readReg t' := by rw [readReg, readLit_congr h]; rfl

theorem readRegComma_congr : readRegComma t = readRegComma t' := by rw [readRegComma, readReg_congr h]; rfl

theorem instr_congr (m : Mnemonic) : m.instr t = m.instr t' := by
  have int := readInt_congr h
  have reg := readReg_congr h
  have regComma := readRegComma_congr h
  cases m with
  | mfc0 => rfl
  | j | jal => simp only [Mnemonic.instr, parseJTarget, int]
  | addi | addiu | andi | ori | beq | bne | slti | sltiu => simp only [Mnemonic.instr, parseIArith, regComma]
  | lw | sw => simp only [Mnemonic.instr, parseIMem, regComma]
  | lui => simp only [Mnemonic.instr, parseILui, regComma]
  | add | sub | addu | subu | and | or | slt | sltu | add8 | sadd | ssub =>
    simp only [Mnemonic.instr, parseRThree, regComma]
  | mult | multu | div | divu | rbit | rev => simp only [Mnemonic.instr, parseRRsRt, regComma]
  | mfhi | mflo => simp only [Mnemonic.instr, parseRRd, reg]
  | sll | srl => simp only [Mnemonic.instr, parseRShift, regComma]
  | jr => simp only [Mnemonic.instr, parseRRs, reg]

end

theorem skipSpace_append {ws : Text} (h : ∀ c ∈ ws, isSpace c = true) (y : Text) :
    skipSpace (ws ++ y) = skipSpace y := by
  induction ws with
  | nil => rfl
  | cons c ws ih =>
    rw [List.forall_mem_cons] at h
    rw [List.cons_append, skipSpace, if_pos h.1, ih h.2]

/-- Settles O42: the six bytes are the whitespace that every first read skips. -/
theorem leadingWhitespaceIsIgnored : Obligations.LeadingWhitespaceIsIgnored := by
  intro m c t hc
  have hspace : ∀ c ∈ [0x20#8, 0x09#8, 0x0A#8, 0x0B#8, 0x0C#8, 0x0D#8], isSpace c = true := by decide
  exact instr_congr (skipSpace_append (ws := [c]) (by simpa using hspace c hc) t) m

/-! ## Literals -/

theorem inLitRange_natCast (n : Nat) : inLitRange (n : Int) = true ↔ n < 2 ^ 31 := by
  rw [inLitRange_iff]; omega

theorem inLitRange_neg_natCast (n : Nat) : inLitRange (-(n : Int)) = true ↔ n ≤ 2 ^ 31 := by
  rw [inLitRange_iff]; omega

theorem isDigit_of_isSpace {c : Byte} (h : isSpace c = true) : isDigit c = false := by
  cases hd : isDigit c with
  | false => rfl
  | true => rw [isSpace_of_isDigit c hd] at h; cases h

/-- A plus sign before a digit changes nothing (R45). -/
theorem readInt_plus {c : Byte} (hc : isDigit c = true) (y : Text) :
    readInt (byteOf '+' :: c :: y) = readInt (c :: y) := by
  obtain ⟨hminus, hplus⟩ := sign_not_digit c hc
  have hsign : readSign (c :: y) = (false, c :: y) := by simp [readSign, hminus, hplus]
  have hsign' : readSign (byteOf '+' :: c :: y) = (false, c :: y) := rfl
  rw [readInt, readInt, skipSpace_cons _ _ (isSpace_of_isDigit c hc), skipSpace_cons _ _ (by decide), hsign,
    hsign']

/-- Where no digit follows the whitespace and the sign, there is no literal (R45). -/
theorem readInt_malformed {t : Text} (h : noDigitFirst (readSign (skipSpace t)).2) : readInt t = .malformed := by
  have hspan := spanDigits_append [] _ (fun c hc => by cases hc) h
  rw [List.nil_append] at hspan
  rw [readInt, hspan]; rfl

theorem readInt_sign_malformed {sign : Byte} (hs : sign ∈ [byteOf '+', byteOf '-']) {y : Text}
    (hy : noDigitFirst y) : readInt (sign :: y) = .malformed := by
  have hsign : (readSign (skipSpace (sign :: y))).2 = y := by
    simp only [List.mem_cons, List.not_mem_nil, or_false] at hs
    obtain rfl | rfl := hs <;> rfl
  exact readInt_malformed (by rwa [hsign])

theorem readInt_other_malformed {y : Text} (hy : ∀ c, y.head? = some c →
    isDigit c = false ∧ isSpace c = false ∧ c ∉ [byteOf '+', byteOf '-']) : readInt y = .malformed := by
  cases y with
  | nil => rfl
  | cons c y =>
    obtain ⟨hdigit, hspace, hsign⟩ := hy c rfl
    simp only [List.mem_cons, List.not_mem_nil, or_false, not_or] at hsign
    obtain ⟨hplus, hminus⟩ := hsign
    apply readInt_malformed
    rw [skipSpace_cons _ _ hspace, readSign, if_neg hminus, if_neg hplus]
    exact noDigitFirst_cons y hdigit

theorem mem_of_mem_skipSpace {c : Byte} {t : Text} (h : c ∈ skipSpace t) : c ∈ t := by
  induction t with
  | nil => exact h
  | cons d t ih =>
    rw [skipSpace] at h
    split at h
    · exact List.mem_cons_of_mem d (ih h)
    · exact h

theorem mem_of_mem_readSign {c : Byte} {t : Text} (h : c ∈ (readSign t).2) : c ∈ t := by
  cases t with
  | nil => exact h
  | cons d t =>
    rw [readSign] at h
    split_ifs at h
    · exact List.mem_cons_of_mem d h
    · exact List.mem_cons_of_mem d h
    · exact h

theorem readInt_no_digit {y : Text} (hy : ∀ c ∈ y, isDigit c = false) : readInt y = .malformed :=
  readInt_malformed fun c hc =>
    hy c (mem_of_mem_skipSpace (mem_of_mem_readSign (List.mem_of_mem_head? (Option.mem_def.mpr hc))))

/-- Settles O40, by what the reader skips, takes as a sign and spans as digits. -/
theorem literalIsReadInTheSigned32BitRange : Obligations.LiteralIsReadInTheSigned32BitRange := by
  refine ⟨fun d ds x hd hds hx => ?digits, fun ws y hws => readInt_congr (skipSpace_append hws y),
    fun sign y hs hy => readInt_sign_malformed hs hy,
    fun sign c y hs hc => readInt_sign_malformed hs (noDigitFirst_cons y (isDigit_of_isSpace hc)),
    fun y hy => readInt_other_malformed hy, fun y hy => readInt_no_digit hy⟩
  case digits =>
    have hall : allDigits (d :: ds) := List.forall_mem_cons.mpr ⟨hd, hds⟩
    refine ⟨?_, readInt_plus hd _, ?_⟩
    · rw [readInt_digits _ x (List.cons_ne_nil d ds) hall hx]
      simp only [inLitRange_natCast]
    · rw [readInt_minus _ x (List.cons_ne_nil d ds) hall hx]
      simp only [inLitRange_neg_natCast]

/-! ## Delimiters and registers -/

theorem skipSpace_spaces {ws : Text} (h : ∀ c ∈ ws, isSpace c = true) : skipSpace ws = [] := by
  simpa [skipSpace] using skipSpace_append h []

theorem readLit_spaces {ws : Text} (h : ∀ c ∈ ws, isSpace c = true) (c : Char) :
    readLit ws c = .malformed := by
  rw [readLit, skipSpace_spaces h]; rfl

theorem readLit_other {ws : Text} (h : ∀ c ∈ ws, isSpace c = true) {c : Char} {d : Byte} (hd : isSpace d = false)
    (hne : d ≠ byteOf c) (y : Text) : readLit (ws ++ d :: y) c = .malformed := by
  rw [readLit, skipSpace_append h, skipSpace_cons _ _ hd, expect, if_neg hne]

theorem readLit_delimiter {ws : Text} (h : ∀ c ∈ ws, isSpace c = true) {c : Char}
    (hc : isSpace (byteOf c) = false) (y : Text) : readLit (ws ++ byteOf c :: y) c = .ok y := by
  rw [readLit_congr (skipSpace_append h _), readLit_cons c y hc]

theorem readReg_dollar {ws : Text} (h : ∀ c ∈ ws, isSpace c = true) (y : Text) :
    readReg (ws ++ byteOf '$' :: y) = readInt y := by
  rw [readReg, readLit_delimiter (c := '$') h (by decide)]; rfl

theorem readReg_malformed {t : Text} (h : readLit t '$' = .malformed) : readReg t = .malformed := by
  rw [readReg, h]; rfl

/-- Settles O51: after whitespace a delimiter reads the very next byte, and a register is `$` and a literal. -/
theorem delimitersAndRegistersAreReadExactly : Obligations.DelimitersAndRegistersAreReadExactly := by
  refine ⟨fun c ws hc hws => ?delimiter, fun ws hws => ⟨readReg_dollar hws,
    readReg_malformed (readLit_spaces hws _),
    fun d y hd hne => readReg_malformed (readLit_other hws hd hne y), fun gap hgap => ?register⟩⟩
  case delimiter =>
    have hspace : ∀ c ∈ ['$', ',', '(', ')'], isSpace (byteOf c) = false := by
      simp only [List.forall_mem_cons]
      exact ⟨rfl, rfl, rfl, rfl, List.forall_mem_nil _⟩
    exact ⟨readLit_delimiter hws (hspace c hc), readLit_spaces hws c,
      fun d y hd hne => readLit_other hws hd hne y⟩
  case register =>
    refine ⟨?_, fun d y hdigit hspace hsign => ?_⟩
    · rw [readReg_dollar hws]
      exact readInt_no_digit fun c hc => isDigit_of_isSpace (hgap c hc)
    · rw [readReg_dollar hws, readInt_congr (skipSpace_append hgap _)]
      refine readInt_other_malformed fun c hc => ?_
      cases hc
      exact ⟨hdigit, hspace, hsign⟩

/-! ## Bytes after the last token -/

theorem skipSpace_append_of_ne_nil {t : Text} (h : skipSpace t ≠ []) (x : Text) :
    skipSpace (t ++ x) = skipSpace t ++ x := by
  induction t with
  | nil => exact absurd rfl h
  | cons c t ih =>
    rw [List.cons_append]
    cases hc : isSpace c with
    | true =>
      simp only [skipSpace, hc, if_true] at h ⊢
      exact ih h
    | false => rw [skipSpace_cons _ _ hc, skipSpace_cons _ _ hc, List.cons_append]

theorem readSign_append {t : Text} (h : t ≠ []) (x : Text) :
    readSign (t ++ x) = ((readSign t).1, (readSign t).2 ++ x) := by
  obtain ⟨c, t, rfl⟩ := List.exists_cons_of_ne_nil h
  rw [List.cons_append, readSign, readSign]
  split_ifs <;> rfl

theorem spanDigits_append_right {t x : Text} (h : (spanDigits t).2 = [] → noDigitFirst x) :
    spanDigits (t ++ x) = ((spanDigits t).1, (spanDigits t).2 ++ x) := by
  induction t with
  | nil => simpa [spanDigits] using spanDigits_append [] x (fun c hc => by cases hc) (h rfl)
  | cons c t ih =>
    rw [List.cons_append, spanDigits, spanDigits]
    cases hc : isDigit c with
    | true => simp_all [spanDigits]
    | false => rfl

/-- What `read_int` has read when it gives a value (R45). -/
theorem readInt_eq_ok {t r : Text} {v : Int} : readInt t = .ok (v, r) ↔
    ∃ ds, spanDigits (readSign (skipSpace t)).2 = (ds, r) ∧ ds ≠ [] ∧
      signedValue (readSign (skipSpace t)).1 ds = v ∧ inLitRange v = true := by
  rw [readInt]
  generalize readSign (skipSpace t) = signed
  generalize spanDigits signed.2 = span
  obtain ⟨ds, rest⟩ := span
  constructor
  · intro h
    split_ifs at h with hne hrange
    cases h
    exact ⟨ds, rfl, hne, rfl, hrange⟩
  · rintro ⟨_, heq, hne, rfl, hrange⟩
    cases heq
    rw [if_neg hne, if_pos hrange]

/-- A literal is the same before more bytes, unless the literal's digits go on in them. -/
theorem readInt_append {t r x : Text} {v : Int} (h : readInt t = .ok (v, r)) (hx : r = [] → noDigitFirst x) :
    readInt (t ++ x) = .ok (v, r ++ x) := by
  obtain ⟨ds, hspan, hne, hv, hrange⟩ := readInt_eq_ok.mp h
  have hskip : skipSpace t ≠ [] := by
    intro hnil
    rw [hnil] at hspan
    cases hspan
    exact hne rfl
  have hspan' : spanDigits ((readSign (skipSpace t)).2 ++ x) = (ds, r ++ x) := by
    rw [spanDigits_append_right (by rwa [hspan]), hspan]
  rw [readInt_eq_ok, skipSpace_append_of_ne_nil hskip, readSign_append hskip]
  exact ⟨ds, hspan', hne, hv, hrange⟩

theorem readLit_append {t r : Text} {c : Char} (h : readLit t c = .ok r) (x : Text) :
    readLit (t ++ x) c = .ok (r ++ x) := by
  have hskip : skipSpace t ≠ [] := by
    intro hnil
    rw [readLit, hnil] at h
    cases h
  rw [readLit] at h ⊢
  rw [skipSpace_append_of_ne_nil hskip]
  obtain ⟨d, u, hdu⟩ := List.exists_cons_of_ne_nil hskip
  rw [hdu, expect] at h
  rw [hdu, List.cons_append, expect]
  split_ifs at h ⊢ with hd
  cases h
  rfl

theorem ne_nil_of_readLit {t r : Text} {c : Char} (h : readLit t c = .ok r) : t ≠ [] := by
  rintro rfl; cases h

theorem readReg_append {t r x : Text} {v : Int} (h : readReg t = .ok (v, r)) (hx : r = [] → noDigitFirst x) :
    readReg (t ++ x) = .ok (v, r ++ x) := by
  obtain ⟨u, hdollar, hint⟩ := bind_eq_ok.mp h
  rw [readReg, readLit_append hdollar x]
  exact readInt_append hint hx

section
variable {t x : Text}

/-- The last token of shape I_MEM is the closing parenthesis, so that any bytes may come after it. -/
theorem parseIMem_append {o : IMem} (h : parseIMem t = .ok o) (x : Text) : parseIMem (t ++ x) = .ok o := by
  rw [parseIMem_eq_ok] at h ⊢
  obtain ⟨a, b, c, d, e, f, hrt, hcomma, himm, hopen, hrs, hclose⟩ := h
  exact ⟨a ++ x, b ++ x, c ++ x, d ++ x, e ++ x, f ++ x,
    readReg_append hrt fun hnil => absurd hnil (ne_nil_of_readLit hcomma), readLit_append hcomma x,
    readInt_append himm fun hnil => absurd hnil (ne_nil_of_readLit hopen), readLit_append hopen x,
    readReg_append hrs fun hnil => absurd hnil (ne_nil_of_readLit hclose), readLit_append hclose x⟩

variable (hx : noDigitFirst x)
include hx

theorem parseJTarget_append {o : JTarget} (h : parseJTarget t = .ok o) : parseJTarget (t ++ x) = .ok o := by
  rw [parseJTarget_eq_ok] at h ⊢
  obtain ⟨a, htarget⟩ := h
  exact ⟨a ++ x, readInt_append htarget fun _ => hx⟩

theorem parseILui_append {o : ILui} (h : parseILui t = .ok o) : parseILui (t ++ x) = .ok o := by
  rw [parseILui_eq_ok] at h ⊢
  obtain ⟨a, b, c, hrt, hcomma, himm⟩ := h
  exact ⟨a ++ x, b ++ x, c ++ x, readReg_append hrt fun _ => hx, readLit_append hcomma x,
    readInt_append himm fun _ => hx⟩

theorem parseIArith_append {o : IArith} (h : parseIArith t = .ok o) : parseIArith (t ++ x) = .ok o := by
  rw [parseIArith_eq_ok] at h ⊢
  obtain ⟨a, b, c, d, e, hrt, hcomma, hrs, hcomma', himm⟩ := h
  exact ⟨a ++ x, b ++ x, c ++ x, d ++ x, e ++ x, readReg_append hrt fun _ => hx, readLit_append hcomma x,
    readReg_append hrs fun _ => hx, readLit_append hcomma' x, readInt_append himm fun _ => hx⟩

theorem parseRRs_append {o : RRs} (h : parseRRs t = .ok o) : parseRRs (t ++ x) = .ok o := by
  rw [parseRRs_eq_ok] at h ⊢
  obtain ⟨a, hrs⟩ := h
  exact ⟨a ++ x, readReg_append hrs fun _ => hx⟩

theorem parseRRd_append {o : RRd} (h : parseRRd t = .ok o) : parseRRd (t ++ x) = .ok o := by
  rw [parseRRd_eq_ok] at h ⊢
  obtain ⟨a, hrd⟩ := h
  exact ⟨a ++ x, readReg_append hrd fun _ => hx⟩

theorem parseRRsRt_append {o : RRsRt} (h : parseRRsRt t = .ok o) : parseRRsRt (t ++ x) = .ok o := by
  rw [parseRRsRt_eq_ok] at h ⊢
  obtain ⟨a, b, c, hrs, hcomma, hrt⟩ := h
  exact ⟨a ++ x, b ++ x, c ++ x, readReg_append hrs fun _ => hx, readLit_append hcomma x,
    readReg_append hrt fun _ => hx⟩

theorem parseRShift_append {o : RShift} (h : parseRShift t = .ok o) : parseRShift (t ++ x) = .ok o := by
  rw [parseRShift_eq_ok] at h ⊢
  obtain ⟨a, b, c, d, e, hrd, hcomma, hrt, hcomma', hshamt⟩ := h
  exact ⟨a ++ x, b ++ x, c ++ x, d ++ x, e ++ x, readReg_append hrd fun _ => hx, readLit_append hcomma x,
    readReg_append hrt fun _ => hx, readLit_append hcomma' x, readInt_append hshamt fun _ => hx⟩

theorem parseRThree_append {o : RThree} (h : parseRThree t = .ok o) : parseRThree (t ++ x) = .ok o := by
  rw [parseRThree_eq_ok] at h ⊢
  obtain ⟨a, b, c, d, e, hrd, hcomma, hrs, hcomma', hrt⟩ := h
  exact ⟨a ++ x, b ++ x, c ++ x, d ++ x, e ++ x, readReg_append hrd fun _ => hx, readLit_append hcomma x,
    readReg_append hrs fun _ => hx, readLit_append hcomma' x, readReg_append hrt fun _ => hx⟩

end

/-- An instruction whose parser reads the same operands before more bytes is the same instruction. -/
theorem instr_append_of_parse {α : Type} {mk : Parsed α → Instr} {parse : Text → Parsed α} {t x : Text}
    (hp : (mk (parse t)).parsed = true) (hmalformed : (mk .malformed).parsed = false)
    (happend : ∀ {o}, parse t = .ok o → parse (t ++ x) = .ok o) : mk (parse (t ++ x)) = mk (parse t) := by
  cases hparse : parse t with
  | ok o => rw [happend hparse]
  | malformed => rw [hparse, hmalformed] at hp; cases hp

theorem instr_append {m : Mnemonic} {t x : Text} (hp : (m.instr t).parsed = true) (hx : noDigitFirst x) :
    m.instr (t ++ x) = m.instr t := by
  cases m with
  | mfc0 => rfl
  | j | jal => exact instr_append_of_parse hp rfl (parseJTarget_append hx)
  | addi | addiu | andi | ori | beq | bne | slti | sltiu =>
    exact instr_append_of_parse hp rfl (parseIArith_append hx)
  | lw | sw => exact instr_append_of_parse hp rfl fun h => parseIMem_append h x
  | lui => exact instr_append_of_parse hp rfl (parseILui_append hx)
  | add | sub | addu | subu | and | or | slt | sltu | add8 | sadd | ssub =>
    exact instr_append_of_parse hp rfl (parseRThree_append hx)
  | mult | multu | div | divu | rbit | rev => exact instr_append_of_parse hp rfl (parseRRsRt_append hx)
  | mfhi | mflo => exact instr_append_of_parse hp rfl (parseRRd_append hx)
  | sll | srl => exact instr_append_of_parse hp rfl (parseRShift_append hx)
  | jr => exact instr_append_of_parse hp rfl (parseRRs_append hx)

/-- Settles O41, by what each shape's tokens read before more bytes. -/
theorem trailingTextIsIgnored : Obligations.TrailingTextIsIgnored := by
  refine ⟨fun m t x hp hx => instr_append hp hx, fun t x o h hx => parseRThree_append hx h,
    fun m t x hm hp => ?_⟩
  simp only [List.mem_cons, List.not_mem_nil, or_false] at hm
  obtain rfl | rfl | rfl := hm
  · exact instr_append_of_parse (mk := .lw) hp rfl fun h => parseIMem_append h x
  · exact instr_append_of_parse (mk := .sw) hp rfl fun h => parseIMem_append h x
  · rfl

end Sys2Proof.Machine
end

section
/-! Proofs about requests and their responses (spec/30_encoding.md R31 to R43, R58 to R62,
spec/40_j_format.md to spec/42_r_format.md, spec/60_exceptions.md R103, R104, R109).

With the ROMs built, each format's answer is one lemma (`answerJ_word` to `answerR_word`): the word that is laid
out with the ROM's values. Which response a request gets, in any state, is said once (`answer_responds`). -/

namespace Sys2Proof.Machine

/-! ## The classifier -/

theorem text_injective {k m : Mnemonic} (h : k.text = m.text) : k = m :=
  Option.some.inj (by rw [← lookupMnemonic_text, h, lookupMnemonic_text])

/-- R39: matching is exact. -/
theorem lookupMnemonic_eq_some {t : Text} {k : Mnemonic} : lookupMnemonic t = some k ↔ k.text = t :=
  ⟨lookupMnemonic_some, fun h => h ▸ lookupMnemonic_text k⟩

theorem lookupMnemonic_eq_none {t : Text} : lookupMnemonic t = none ↔ ∀ k : Mnemonic, k.text ≠ t :=
  ⟨fun h k hk => Option.some_ne_none k ((hk ▸ lookupMnemonic_text k).symm.trans h), lookupMnemonic_none⟩

theorem classifyFormat_text (k : Mnemonic) : classifyFormat k.text = formatOf k := by
  rw [classifyFormat, lookupMnemonic_text]

theorem classifyShape_text (k : Mnemonic) : classifyShape k.text = shapeOf k := by
  rw [classifyShape, lookupMnemonic_text]

theorem classifyFormat_unknown {m : Text} (h : ∀ k : Mnemonic, k.text ≠ m) : classifyFormat m = .R := by
  rw [classifyFormat, lookupMnemonic_none h]

theorem classifyShape_unknown {m : Text} (h : ∀ k : Mnemonic, k.text ≠ m) : classifyShape m = .rThree := by
  rw [classifyShape, lookupMnemonic_none h]

/-- A format that is not the default is a vocabulary entry's. -/
theorem classifyFormat_eq_iff {m : Text} {F : Format} (hF : F ≠ .R) :
    classifyFormat m = F ↔ ∃ k, formatOf k = F ∧ k.text = m := by
  constructor
  · intro h
    cases hm : lookupMnemonic m with
    | none => exact absurd ((classifyFormat_unknown (lookupMnemonic_eq_none.mp hm)).symm.trans h) hF.symm
    | some k =>
      have hk := lookupMnemonic_some hm
      exact ⟨k, by rw [← classifyFormat_text, hk, h], hk⟩
  · rintro ⟨k, hk, rfl⟩
    rw [classifyFormat_text, hk]

theorem mem_allJ (k : Mnemonic) : k ∈ Mnemonic.allJ ↔ formatOf k = .J := by cases k <;> decide

theorem mem_allI (k : Mnemonic) : k ∈ Mnemonic.allI ↔ formatOf k = .I := by cases k <;> decide

theorem mem_allR (k : Mnemonic) : k ∈ Mnemonic.allR ↔ formatOf k = .R := by cases k <;> decide

/-- Settles O35: a vocabulary entry is found at its own bytes only, and each list is its format's entries. -/
theorem formatIsAPartitionOfTheMnemonics : Obligations.FormatIsAPartitionOfTheMnemonics := by
  refine ⟨fun m => ⟨?J, ?I, ?R⟩, ?distinct, rfl, fun m k => lookupMnemonic_eq_some⟩
  case J =>
    rw [classifyFormat_eq_iff (by decide)]
    simp only [← mem_allJ]
    exact List.mem_map.symm
  case I =>
    rw [classifyFormat_eq_iff (by decide)]
    simp only [← mem_allI]
    exact List.mem_map.symm
  case R => cases classifyFormat m <;> decide
  case distinct =>
    have hall : Mnemonic.all.Nodup := by decide
    exact hall.map fun _ _ => text_injective

/-- Settles O36: the classifier's answer for a vocabulary entry is its shape. -/
theorem shapeOfEveryByteString : Obligations.ShapeOfEveryByteString := by
  refine ⟨fun m h => ⟨classifyShape_unknown h, classifyFormat_unknown h⟩, fun m => ?_⟩
  rw [classifyShape_text]
  cases m <;> rfl

/-! ## The two ROMs -/

/-- R43: a missing entry reads 0. -/
theorem read_missing {m : Text} {rom : Rom} (h : ∀ e ∈ rom, e.1 ≠ m) : Rom.read m rom = 0 := by
  induction rom with
  | nil => rfl
  | cons e rom ih =>
    obtain ⟨he, hrom⟩ := List.forall_mem_cons.mp h
    exact (if_neg he).trans (ih hrom)

theorem read_append {m : Text} {v : Nat} {a b : Rom} (h : ∀ e ∈ a, e.1 ≠ m) :
    Rom.read m (a ++ (m, v) :: b) = v := by
  induction a with
  | nil => exact if_pos rfl
  | cons e a ih =>
    obtain ⟨he, ha⟩ := List.forall_mem_cons.mp h
    exact (if_neg he).trans (ih ha)

section
variable {p : Params} {s : State}

theorem opc_unknown (h : RomsBuilt p s) {m : Text} (hm : ∀ k : Mnemonic, k.text ≠ m) : s.opc m = 0 := by
  rw [State.opc, h.1]
  refine read_missing fun e he => ?_
  obtain ⟨k, -, rfl⟩ := List.mem_map.mp he
  exact hm k

theorem funct_unknown (h : RomsBuilt p s) {m : Text} (hm : ∀ k : Mnemonic, k.text ≠ m) : s.funct m = 0 := by
  rw [State.funct, h.2]
  refine read_missing fun e he => ?_
  obtain ⟨k, -, rfl⟩ := List.mem_map.mp he
  exact hm k

end

theorem functOf_of_format_ne_R (p : Params) {k : Mnemonic} (hk : formatOf k ≠ .R) : functOf p k = 0 := by
  cases k with
  | j | jal | addi | addiu | andi | ori | lw | sw | lui | beq | bne | slti | sltiu => rfl
  | _ => exact absurd rfl hk

/-- Settles O37, by the recursion of `Rom.read` and the built contents. -/
theorem missingEntryReadsZero : Obligations.MissingEntryReadsZero := by
  refine ⟨fun m rom h => read_missing h, fun m v a b h => read_append h,
    fun p s m h => ⟨fun hm => ⟨opc_unknown h hm, funct_unknown h hm⟩, fun hF => ?_⟩⟩
  obtain ⟨k, hk, rfl⟩ := (classifyFormat_eq_iff hF).mp rfl
  rw [funct_text h, functOf_of_format_ne_R p (hk ▸ hF)]

/-- Settles O38: the opcode ROM holds `opcodeOf` at each vocabulary entry. -/
theorem opcodeRomReadsItsTable : Obligations.OpcodeRomReadsItsTable := by
  intro p s h
  exact ⟨opc_text h .j, opc_text h .jal, opc_text h .addi, opc_text h .lw, opc_text h .sw, opc_text h .lui,
    opc_text h .beq, opc_text h .addiu, opc_text h .andi, opc_text h .ori, opc_text h .bne, opc_text h .slti,
    opc_text h .sltiu, fun m hm => (opc_text h m).trans (opcodeOf_R p m ((mem_allR m).mp hm))⟩

/-- Settles O39: the function-code ROM holds `functOf` at each R-format entry. -/
theorem functionCodeRomReadsItsTable : Obligations.FunctionCodeRomReadsItsTable := by
  intro p s h
  exact ⟨funct_text h .add, funct_text h .sub, funct_text h .mult, funct_text h .sll, funct_text h .srl,
    funct_text h .jr, funct_text h .addu, funct_text h .subu, funct_text h .multu, funct_text h .div,
    funct_text h .divu, funct_text h .mfhi, funct_text h .mflo, funct_text h .and, funct_text h .or,
    funct_text h .slt, funct_text h .sltu, funct_text h .rbit, funct_text h .rev, funct_text h .add8,
    funct_text h .sadd, funct_text h .ssub⟩

/-- A function code fits its field, whatever the parameters are (R42, D11). -/
theorem functOf_lt (p : Params) (m : Mnemonic) : functOf p m < 64 := by
  cases m with
  | addu | subu | multu | div | divu | mfhi | mflo | and | or | slt | sltu | mfc0 | rbit | rev | add8 | sadd
  | ssub => exact BitVec.isLt _
  | _ => simp [functOf]

/-- Settles O31: the packer's word is its fields side by side, and the ROMs hold 6-bit function codes. -/
theorem rFormatPackerFillsItsFields : Obligations.RFormatPackerFillsItsFields := by
  refine ⟨fun opc fn f => ?_, fun p s m h hm => ?_⟩
  · rw [packR_eq, ← low_natCast, ← low_natCast]
    exact fields_append ..
  · rw [opc_text h, funct_text h]
    exact ⟨opcodeOf_R p m hm, functOf_lt p m⟩

/-! ## The word of each format's answer, with the ROMs built -/

section
variable {p : Params} {s : State} {op fn : BitVec 6}

theorem answerJ_word (h : RomsBuilt p s) (m : Mnemonic) (f : JFields) (hop : low 6 (opcodeOf p m) = op) :
    WordAnswer (answerJ m.text (.ok f) s) s (wordJ op f.target) :=
  wordAnswer_of_eq (by rw [packJ_eq_wordJ, opc_text h, hop])

theorem answerI_word (h : RomsBuilt p s) (m : Mnemonic) (f : IFields) (hop : low 6 (opcodeOf p m) = op) :
    WordAnswer (answerI m.text (.ok f) s) s (wordI op f.rs f.rt f.imm) :=
  wordAnswer_of_eq (by rw [packI_eq_wordI, opc_text h, hop])

theorem answerR_word (h : RomsBuilt p s) (m : Mnemonic) (f : RFields) (hm : opcodeOf p m = 0)
    (hfn : low 6 (functOf p m) = fn) :
    WordAnswer (answerR m.text (.ok f) s) s (wordR f.rs f.rt f.rd f.shamt fn) :=
  wordAnswer_of_eq (by rw [packR_eq_wordR _ _ _ (by rw [opc_text h, hm]; rfl), funct_text h, hfn])

end

/-- Settles O14: the opcode ROM holds 2 and 3. -/
theorem jumpsEmitOpcodeAndTarget : Obligations.JumpsEmitOpcodeAndTarget := fun _ _ _ h =>
  ⟨answerJ_word h .j _ rfl, answerJ_word h .jal _ rfl⟩

/-- Settles O15: the opcode ROM holds 8 and 4. -/
theorem givenOpcodeImmediatesEmitRtFirst : Obligations.GivenOpcodeImmediatesEmitRtFirst := fun _ _ _ h =>
  ⟨answerI_word h .addi _ rfl, answerI_word h .beq _ rfl⟩

/-- Settles O16: the opcode ROM holds each parameter, and a 6-bit value is its own mask. -/
theorem parameterOpcodeImmediatesEmitRtFirst : Obligations.ParameterOpcodeImmediatesEmitRtFirst :=
  fun _ _ _ h => ⟨answerI_word h .addiu _ (low_natCast_toNat _), answerI_word h .andi _ (low_natCast_toNat _),
    answerI_word h .ori _ (low_natCast_toNat _), answerI_word h .bne _ (low_natCast_toNat _),
    answerI_word h .slti _ (low_natCast_toNat _), answerI_word h .sltiu _ (low_natCast_toNat _)⟩

/-- Settles O17: the multiplexer drives rs with the base, and an answer drives the ports only. -/
theorem memoryFormsEmitBaseRegisterAndOffset : Obligations.MemoryFormsEmitBaseRegisterAndOffset :=
  fun _ _ _ h => ⟨answerI_word h .lw _ rfl, answerI_word h .sw _ rfl⟩

/-- Settles O18: the multiplexer drives rs with 0. -/
theorem luiEmitsZeroRs : Obligations.LuiEmitsZeroRs := fun _ _ _ h => answerI_word h .lui _ rfl

/-- Settles O19: the function-code ROM holds 32 and 34. -/
theorem givenCodeThreeRegisterFormsEmitTheirFields : Obligations.GivenCodeThreeRegisterFormsEmitTheirFields :=
  fun _ _ _ h => ⟨answerR_word h .add _ rfl rfl, answerR_word h .sub _ rfl rfl⟩

/-- Settles O20: the function-code ROM holds each parameter, a 6-bit value. -/
theorem parameterCodeThreeRegisterFormsEmitTheirFields :
    Obligations.ParameterCodeThreeRegisterFormsEmitTheirFields := fun _ _ _ h =>
  ⟨answerR_word h .addu _ rfl (low_natCast_toNat _), answerR_word h .subu _ rfl (low_natCast_toNat _),
    answerR_word h .and _ rfl (low_natCast_toNat _), answerR_word h .or _ rfl (low_natCast_toNat _),
    answerR_word h .slt _ rfl (low_natCast_toNat _), answerR_word h .sltu _ rfl (low_natCast_toNat _)⟩

/-- Settles O21: the function-code ROM holds each OPEN code, a 6-bit value. -/
theorem openCodeThreeRegisterFormsEmitTheirFields : Obligations.OpenCodeThreeRegisterFormsEmitTheirFields :=
  fun _ _ _ h => ⟨answerR_word h .add8 _ rfl (low_natCast_toNat _),
    answerR_word h .sadd _ rfl (low_natCast_toNat _), answerR_word h .ssub _ rfl (low_natCast_toNat _)⟩

/-- Settles O22: the multiplexer drives rd and shamt with 0. -/
theorem twoRegisterFormsEmitTheirFields : Obligations.TwoRegisterFormsEmitTheirFields := fun _ _ _ h =>
  ⟨answerR_word h .mult _ rfl rfl, answerR_word h .multu _ rfl (low_natCast_toNat _),
    answerR_word h .div _ rfl (low_natCast_toNat _), answerR_word h .divu _ rfl (low_natCast_toNat _),
    answerR_word h .rbit _ rfl (low_natCast_toNat _), answerR_word h .rev _ rfl (low_natCast_toNat _)⟩

/-- Settles O23: the multiplexer drives all fields but rd with 0. -/
theorem moveFromHiLoEmitsRd : Obligations.MoveFromHiLoEmitsRd := fun _ _ _ h =>
  ⟨answerR_word h .mfhi _ rfl (low_natCast_toNat _), answerR_word h .mflo _ rfl (low_natCast_toNat _)⟩

/-- Settles O24: the multiplexer drives rs with 0 and shamt with the literal. -/
theorem shiftsEmitRtRdAndShamt : Obligations.ShiftsEmitRtRdAndShamt := fun _ _ _ h =>
  ⟨answerR_word h .sll _ rfl rfl, answerR_word h .srl _ rfl rfl⟩

/-- Settles O25: the multiplexer drives all fields but rs with 0. -/
theorem jrEmitsRs : Obligations.JrEmitsRs := fun _ _ _ h => answerR_word h .jr _ rfl rfl

/-! ### The table's word -/

section
variable {p : Params} {s : State} {op fn : BitVec 6} {α : Type} {ops : Parsed α} {w : Word} {m : Mnemonic}

theorem answerJ_of_word (h : RomsBuilt p s) {mux : α → JFields}
    (hw : ops.word (fun o => wordJ op (mux o).target) = some w) (hop : low 6 (opcodeOf p m) = op) :
    WordAnswer (answerJ m.text (ops.map mux) s) s w := by
  cases ops with
  | ok o => cases hw; exact answerJ_word h m _ hop
  | malformed => cases hw

theorem answerI_of_word (h : RomsBuilt p s) {mux : α → IFields}
    (hw : ops.word (fun o => wordI op (mux o).rs (mux o).rt (mux o).imm) = some w)
    (hop : low 6 (opcodeOf p m) = op) : WordAnswer (answerI m.text (ops.map mux) s) s w := by
  cases ops with
  | ok o => cases hw; exact answerI_word h m _ hop
  | malformed => cases hw

theorem answerR_of_word (h : RomsBuilt p s) {mux : α → RFields}
    (hw : ops.word (fun o => wordR (mux o).rs (mux o).rt (mux o).rd (mux o).shamt fn) = some w)
    (hm : opcodeOf p m = 0) (hfn : low 6 (functOf p m) = fn) :
    WordAnswer (answerR m.text (ops.map mux) s) s w := by
  cases ops with
  | ok o => cases hw; exact answerR_word h m _ hm hfn
  | malformed => cases hw

end

/-- Settles O12: each instruction's answer has the opcode and function code of its row. -/
theorem execEmitsTheTableWord : Obligations.ExecEmitsTheTableWord := by
  intro f s i w h hw
  cases i with
  | mfc0 => cases hw
  | j ops | jal ops => exact answerJ_of_word h hw rfl
  | addi ops | addiu ops | andi ops | ori ops | lw ops | sw ops | lui ops | beq ops | bne ops
  | slti ops | sltiu ops => exact answerI_of_word h hw rfl
  | add ops | sub ops | addu ops | subu ops | mult ops | multu ops | div ops | divu ops | mfhi ops
  | mflo ops | and ops | or ops | sll ops | srl ops | slt ops | sltu ops | jr ops =>
    exact answerR_of_word h hw rfl rfl
  | rbit ops | rev ops | add8 ops | sadd ops | ssub ops =>
    exact answerR_of_word h hw rfl (low_natCast_toNat _)

/-! ## Which response a request gets, in any state -/

/-- `Responds m run parsed`: in every state the answer is a word that the mnemonic's ROM values determine, where
the operand text is well-formed, and the malformed word, where it is not (R103, R104). -/
inductive Responds (m : Text) (run : State → Result) : Bool → Prop where
  | word (W : Nat → Nat → Word) (h : ∀ s, run s = .next (s.emitWord (W (s.opc m) (s.funct m)))) :
      Responds m run true
  | malformed (h : ∀ s, run s = answerMalformed m s) : Responds m run false

/-- The operand text was well-formed. -/
def isOk {α : Type} : Parsed α → Bool
  | .ok _ => true
  | .malformed => false

section
variable {α : Type} {m : Text} {ops : Parsed α} {run : State → Result} {parsed : Bool} (hp : parsed = isOk ops)
include hp

theorem answerJ_responds {mux : α → JFields} (hrun : ∀ s, run s = answerJ m (ops.map mux) s) :
    Responds m run parsed := by
  subst hp
  cases ops with
  | ok o => exact .word (fun opc _ => packJ opc (mux o)) hrun
  | malformed => exact .malformed hrun

theorem answerI_responds {mux : α → IFields} (hrun : ∀ s, run s = answerI m (ops.map mux) s) :
    Responds m run parsed := by
  subst hp
  cases ops with
  | ok o => exact .word (fun opc _ => packI opc (mux o)) hrun
  | malformed => exact .malformed hrun

theorem answerR_responds {mux : α → RFields} (hrun : ∀ s, run s = answerR m (ops.map mux) s) :
    Responds m run parsed := by
  subst hp
  cases ops with
  | ok o => exact .word (fun opc fn => packR opc (mux o) fn) hrun
  | malformed => exact .malformed hrun

end

theorem exec_responds {i : Instr} (hi : i ≠ .mfc0) : Responds i.mnemonic.text (exec i) i.parsed := by
  cases i with
  | mfc0 => exact absurd rfl hi
  | j ops | jal ops => exact answerJ_responds (by cases ops <;> rfl) fun _ => rfl
  | addi ops | addiu ops | andi ops | ori ops | lw ops | sw ops | lui ops | beq ops | bne ops
  | slti ops | sltiu ops => exact answerI_responds (by cases ops <;> rfl) fun _ => rfl
  | add ops | sub ops | addu ops | subu ops | mult ops | multu ops | div ops | divu ops | mfhi ops
  | mflo ops | and ops | or ops | sll ops | srl ops | slt ops | sltu ops | jr ops | rbit ops | rev ops
  | add8 ops | sadd ops | ssub ops => exact answerR_responds (by cases ops <;> rfl) fun _ => rfl

theorem mnemonic_instr (m : Mnemonic) (t : Text) : (m.instr t).mnemonic = m := by cases m <;> rfl

theorem instr_eq_mfc0 {m : Mnemonic} {t : Text} (h : m.instr t = .mfc0) : m = .mfc0 := by
  rw [← mnemonic_instr m t, h]; rfl

/-- R103: every request but `mfc0` is answered by a word. -/
theorem answer_responds {r : Request} (hr : r.mnem ≠ ascii ['m', 'f', 'c', '0']) :
    Responds r.mnem (answer r) (wellFormedRequest r) := by
  obtain ⟨m, t⟩ := r
  cases hm : lookupMnemonic m with
  | some k =>
    obtain rfl := lookupMnemonic_some hm
    have hd := decodeRequest_text k t
    have hi : k.instr t ≠ .mfc0 := fun h => hr (congrArg Mnemonic.text (instr_eq_mfc0 h))
    have hresp := exec_responds hi
    rw [mnemonic_instr] at hresp
    rwa [wellFormedRequest, hd, funext (answer_of_instr hd)]
  | none =>
    have hd : decodeRequest { mnem := m, opnd := t } = .rejected .unknownMnemonic := by rw [decodeRequest, hm]
    rw [wellFormedRequest, hd, funext (answer_of_rejected hd)]
    exact answerR_responds (by cases parseRThree t <;> rfl) fun _ => rfl

theorem answer_mfc0 {r : Request} (hr : r.mnem = ascii ['m', 'f', 'c', '0']) (s : State) :
    answer r s = .next (s.emitDiag Config.mfc0Diag) := by
  obtain ⟨m, t⟩ := r
  cases hr
  exact answer_of_instr (decodeRequest_text .mfc0 t) s

/-- R104: the malformed word has the opcode of the mnemonic. -/
theorem answerMalformed_answer (m : Text) (s : State) :
    MalformedAnswer (answerMalformed m s) s (BitVec.ofNat 6 (s.opc m)) := by
  refine ⟨_, rfl, ?_, rfl, emitWord_unchanged _ s⟩
  rw [emitWord_word, packMalformed_eq, low_natCast]
  exact BitVec.extractLsb'_append_eq_left

/-- A response that is a word, whichever word it is. -/
theorem Responds.emitsWord {m : Text} {run : State → Result} {parsed : Bool} (h : Responds m run parsed)
    (s : State) : ∃ w, run s = .next (s.emitWord w) := by
  cases h with
  | word W h => exact ⟨_, h s⟩
  | malformed h => exact ⟨_, h s⟩

/-- Settles O26: only `mfc0` has an answer that is no word. -/
theorem mfc0GivesTheDiagnostic : Obligations.Mfc0GivesTheDiagnostic := by
  refine ⟨fun s => ⟨_, rfl, rfl, rfl, emitDiag_unchanged _ s⟩, fun t s => answer_mfc0 rfl s, fun m t s hm => ?_,
    classifyShape_text .mfc0, fun _ => rfl⟩
  obtain ⟨w, hw⟩ := (answer_responds (r := { mnem := m, opnd := t }) hm).emitsWord s
  exact ⟨_, hw, rfl⟩

/-- Settles O28, by the malformed case of the response. -/
theorem malformedTextKeepsTheOpcode : Obligations.MalformedTextKeepsTheOpcode := by
  refine ⟨fun p s i h hi => ?answer, fun m hm => ?empty⟩
  case answer =>
    have hne : i ≠ .mfc0 := by rintro rfl; cases hi
    have hr := exec_responds hne
    rw [hi] at hr
    cases hr with
    | malformed hrun =>
      rw [hrun, ← opc_text h]
      exact answerMalformed_answer _ s
  case empty =>
    cases m with
    | mfc0 => exact absurd rfl hm
    | _ => rfl

/-- Settles O29: a word depends on the two ROM values only, and a malformed word's opcode field on one. -/
theorem wellFormedResponseDependsOnTheRequestAlone : Obligations.WellFormedResponseDependsOnTheRequestAlone := by
  intro r s t hopc hfn
  have hopc' : s.opc r.mnem = t.opc r.mnem := by rw [State.opc, State.opc, hopc]
  have hfn' : s.funct r.mnem = t.funct r.mnem := by rw [State.funct, State.funct, hfn]
  by_cases hr : r.mnem = ascii ['m', 'f', 'c', '0']
  · exact ⟨_, _, answer_mfc0 hr s, answer_mfc0 hr t, rfl, fun h => (by cases h), fun _ => rfl⟩
  have hresp := answer_responds hr
  generalize hwf : wellFormedRequest r = wf at hresp
  cases hresp with
  | word W h =>
    have ht := h t
    rw [← hopc', ← hfn'] at ht
    exact ⟨_, _, h s, ht, rfl, fun _ => rfl, fun _ => rfl⟩
  | malformed h =>
    obtain ⟨u, hu, hbits, hvalid, -⟩ := answerMalformed_answer r.mnem s
    obtain ⟨v, hv, hbits', hvalid', -⟩ := answerMalformed_answer r.mnem t
    refine ⟨u, v, (h s).trans hu, (h t).trans hv, hvalid.trans hvalid'.symm, fun _ => ?_, fun h' => ?_⟩
    · rw [hbits, hbits', hopc']
    · rw [hwf] at h'; cases h'

/-- Settles O30: an answer leaves the ROMs alone, so that no response depends on it. -/
theorem everyRequestHasOneResponseOfTwoKinds : Obligations.EveryRequestHasOneResponseOfTwoKinds := by
  intro r s
  obtain ⟨t, ht, hun⟩ := (answer_emits r s).unchanged
  have ⟨hopc, hfn, _⟩ := hun
  refine ⟨t, ht, ?_, diagText_of_answer ht, hun,
    fun r' => wellFormedResponseDependsOnTheRequestAlone r' s t hopc.symm hfn.symm⟩
  by_cases hr : r.mnem = ascii ['m', 'f', 'c', '0']
  · cases (answer_mfc0 hr s).symm.trans ht
    simp [hr]
  · obtain ⟨w, hw⟩ := (answer_responds hr).emitsWord s
    cases hw.symm.trans ht
    simp [hr]

/-! ## Unknown mnemonics, and requests that share a word -/

theorem answer_unknown {m : Text} (hm : ∀ k : Mnemonic, k.text ≠ m) (t : Text) (s : State) :
    answer { mnem := m, opnd := t } s = execUnknown m (parseRThree t) s :=
  answer_of_rejected (why := .unknownMnemonic) (by rw [decodeRequest, lookupMnemonic_none hm]) s

/-- R102: opcode and function code of an unknown mnemonic are 0. -/
theorem execUnknown_word {p : Params} {s : State} (h : RomsBuilt p s) {m : Text}
    (hm : ∀ k : Mnemonic, k.text ≠ m) (o : RThree) :
    WordAnswer (execUnknown m (.ok o) s) s (wordR o.rs o.rt o.rd 0 0) :=
  wordAnswer_of_eq (by rw [packR_eq_wordR _ _ _ (by rw [opc_unknown h hm]; rfl), funct_unknown h hm]; rfl)

/-- Settles O27: the unknown mnemonic reads 0 in both ROMs. -/
theorem unknownMnemonicEmitsTheThreeRegisterDefault :
    Obligations.UnknownMnemonicEmitsTheThreeRegisterDefault := by
  intro p s m t h hm
  rw [answer_unknown hm]
  refine ⟨fun o ho => ?_, fun ho => ?_⟩
  · rw [ho]; exact execUnknown_word h hm o
  · have hopc : BitVec.ofNat 6 (s.opc m) = 0 := by rw [opc_unknown h hm]; rfl
    rw [ho, ← hopc]
    exact answerMalformed_answer m s

theorem low_eq_zero {n : Nat} {v : Int} (h : v % (2 ^ n : Nat) = 0) : low n v = low n 0 := by
  apply BitVec.eq_of_toNat_eq
  have h0 := toNat_low n v
  rw [h] at h0
  rw [low_zero, BitVec.toNat_zero]
  exact_mod_cast h0

/-- R62: R-format mnemonics with the same function code have the same answer. -/
theorem answerR_eq_of_functOf_eq {p : Params} {s : State} (h : RomsBuilt p s) {k m : Mnemonic}
    (hk : opcodeOf p k = 0) (hm : opcodeOf p m = 0) (hfn : functOf p k = functOf p m) (f : RFields) :
    answerR k.text (.ok f) s = answerR m.text (.ok f) s := by
  rw [answerR_ok, answerR_ok, opc_text h, opc_text h, funct_text h, funct_text h, hk, hm, hfn]

/-- Settles O43: the words of an unknown mnemonic and of `sll` have the same code, and the others share theirs. -/
theorem distinctRequestsCanGiveOneWord : Obligations.DistinctRequestsCanGiveOneWord := by
  intro p s h
  refine ⟨fun m o hm hrs => ?unknown, fun o hfn => ?rbit, fun o hfn => ?add8⟩
  case unknown =>
    refine ⟨wordR 0 o.rt o.rd 0 0, ?_, answerR_word h .sll _ rfl rfl⟩
    have hword : wordR o.rs o.rt o.rd 0 0 = wordR 0 o.rt o.rd 0 0 := by
      rw [wordR, low_eq_zero hrs]; rfl
    exact hword ▸ execUnknown_word h hm o
  case rbit =>
    exact answerR_eq_of_functOf_eq h (k := .rbit) (m := .mult) rfl rfl (congrArg BitVec.toNat hfn) _
  case add8 =>
    exact answerR_eq_of_functOf_eq h (k := .add8) (m := .add) rfl rfl (congrArg BitVec.toNat hfn) _

/-! ## The pseudocode of the encoder -/

/-- The end of `encode(m, t)` (R60): the malformed word, or the packer of the format. -/
def packFields (format : Format) (m : Text) (fields : Parsed AllFields) (s : State) : Result :=
  match format with
  | .J => answerJ m (fields.map fun r => { target := r.target }) s
  | .I => answerI m (fields.map fun r => { rs := r.rs, rt := r.rt, imm := r.imm }) s
  | .R => answerR m (fields.map fun r => { rs := r.rs, rt := r.rt, rd := r.rd, shamt := r.shamt }) s

theorem pseudocode_eq {m : Text} (hm : m ≠ ascii ['m', 'f', 'c', '0']) (t : Text) (s : State) :
    pseudocode m t s = packFields (classifyFormat m) m (parseShape (classifyShape m) t) s := by
  rw [pseudocode, if_neg hm]
  cases parseShape (classifyShape m) t <;> cases classifyFormat m <;> rfl

theorem parsed_map_map {α β γ : Type} (p : Parsed α) (f : α → β) (g : β → γ) :
    (p.map f).map g = p.map fun a => g (f a) := by
  cases p <;> rfl

/-- Each instruction's meaning is the pseudocode at its shape and format. -/
theorem exec_instr_eq_packFields {k : Mnemonic} (hk : k ≠ .mfc0) (t : Text) (s : State) :
    exec (k.instr t) s = packFields (formatOf k) k.text (parseShape (shapeOf k) t) s := by
  cases k with
  | mfc0 => exact absurd rfl hk
  | _ => simp only [formatOf, shapeOf, packFields, parseShape, parsed_map_map]; rfl

/-- Settles O13: by vocabulary entry, and the three-register default outside the vocabulary. -/
theorem encoderFollowsThePseudocode : Obligations.EncoderFollowsThePseudocode := by
  intro m t s
  by_cases hm : m = ascii ['m', 'f', 'c', '0']
  · rw [answer_mfc0 hm, pseudocode, if_pos hm]
  rw [pseudocode_eq hm]
  cases hk : lookupMnemonic m with
  | some k =>
    obtain rfl := lookupMnemonic_some hk
    have hne : k ≠ .mfc0 := by rintro rfl; exact hm rfl
    rw [answer_of_instr (decodeRequest_text k t), classifyFormat_text, classifyShape_text,
      exec_instr_eq_packFields hne]
  | none =>
    have hu := lookupMnemonic_eq_none.mp hk
    rw [answer_unknown hu, classifyFormat_unknown hu, classifyShape_unknown hu]
    simp only [packFields, parseShape, parsed_map_map]; rfl

end Sys2Proof.Machine
end

section
/-! Proofs about lines and runs (spec/30_encoding.md R28, R63 to R65, spec/70_reset_and_hazards.md R118): how the
input is cut into lines, what an output line is, and what a run over a whole input writes.

`run_lines` packages the induction over the input's lines once; the two statements about runs are its two
uses. -/

namespace Sys2Proof.Machine

/-! ## Lines -/

theorem nextLine_append {l : Text} (h : lineFeed ∉ l) (rest : Text) :
    nextLine (l ++ lineFeed :: rest) = some (l, rest) := by
  induction l with
  | nil => exact if_pos rfl
  | cons c l ih =>
    obtain ⟨hc, hl⟩ := List.ne_and_not_mem_of_not_mem_cons h
    rw [List.cons_append, nextLine, if_neg (Ne.symm hc), ih hl]

theorem nextLine_last {l : Text} (h : lineFeed ∉ l) (hne : l ≠ []) : nextLine l = some (l, []) := by
  induction l with
  | nil => exact absurd rfl hne
  | cons c l ih =>
    obtain ⟨hc, hl⟩ := List.ne_and_not_mem_of_not_mem_cons h
    rw [nextLine, if_neg (Ne.symm hc)]
    by_cases hnil : l = []
    · rw [hnil]; rfl
    · rw [ih hl hnil]

theorem splitLine_no_space {a : Text} (h : space ∉ a) : splitLine a = { mnem := a, opnd := [] } := by
  induction a with
  | nil => rfl
  | cons c a ih =>
    obtain ⟨hc, ha⟩ := List.ne_and_not_mem_of_not_mem_cons h
    rw [splitLine, if_neg (Ne.symm hc), ih ha]

/-- Settles O44, by the recursions of `nextLine` and `splitLine`. -/
theorem hostReadsLinesAndSplitsAtTheFirstSpace : Obligations.HostReadsLinesAndSplitsAtTheFirstSpace :=
  ⟨fun _ rest h => nextLine_append h rest, fun _ h hne => nextLine_last h hne, rfl,
    fun a b h => ⟨splitLine_append a b h, splitLine_no_space h⟩⟩

theorem isHexDigit_hexDigit : ∀ d : BitVec 4, isHexDigit (hexDigit d) = true := by decide

theorem hexDigitValue_hexDigit : ∀ d : BitVec 4, hexDigitValue (hexDigit d) = d.toNat := by decide

theorem isHexDigit_of_mem_hexWord {w : Word} {c : Byte} (h : c ∈ hexWord w) : isHexDigit c = true := by
  obtain ⟨k, -, rfl⟩ := List.mem_map.mp h
  exact isHexDigit_hexDigit _

/-- Settles O45: the digits are the word's eight groups of four bits. -/
theorem hexLineIsEightDigitsOfTheWord : Obligations.HexLineIsEightDigitsOfTheWord := by
  intro w
  refine ⟨rfl, fun c hc => isHexDigit_of_mem_hexWord hc, ?_⟩
  have hw := w.isLt
  simp only [hexWord, hexValue, List.map_cons, List.map_nil, List.foldl_cons, List.foldl_nil,
    hexDigitValue_hexDigit, BitVec.extractLsb'_toNat, Nat.shiftRight_eq_div_pow]
  omega

/-! ## Output lines -/

theorem lineFeed_notMem_hexWord (w : Word) : lineFeed ∉ hexWord w := fun h =>
  absurd (isHexDigit_of_mem_hexWord h) (by decide)

theorem lineFeed_notMem_mfc0Diag : lineFeed ∉ Config.mfc0Diag := by
  simp [Config.mfc0Diag, lineFeed]

/-- A response, as text, is one line (R65). -/
theorem lineFeed_notMem_response {r : Request} {s u : State} (h : answer r s = .next u) :
    lineFeed ∉ u.response.text := by
  rw [response_text]
  split
  next hd => rw [diagText_of_answer h hd]; exact lineFeed_notMem_mfc0Diag
  next => exact lineFeed_notMem_hexWord _

theorem linesOf_line {l : Text} (h : lineFeed ∉ l) : linesOf (l ++ [lineFeed]) = [l] :=
  linesOf_next (nextLine_append h [])

theorem linesOf_eq_nil {t : Text} : linesOf t = [] ↔ t = [] := by
  constructor
  · intro h
    by_contra hne
    obtain ⟨⟨line, rest⟩, hn⟩ := Option.ne_none_iff_exists'.mp (mt (nextLine_eq_none t).mp hne)
    rw [linesOf_next hn] at h
    cases h
  · rintro rfl; rfl

theorem linesOf_lineFeed (t : Text) : linesOf (lineFeed :: t) = [] :: linesOf t := if_pos rfl

theorem wholeLines_cons_of_ne_nil {t : Text} (c : Byte) (ht : t ≠ []) : wholeLines (c :: t) = wholeLines t := by
  obtain ⟨d, t, rfl⟩ := List.exists_cons_of_ne_nil ht
  rw [wholeLines, wholeLines, List.getLast?_cons_cons]

/-- Whole lines end where the next text's lines begin. -/
theorem linesOf_append {a : Text} (h : wholeLines a = true) (b : Text) :
    linesOf (a ++ b) = linesOf a ++ linesOf b := by
  induction a with
  | nil => rfl
  | cons c t ih =>
    by_cases hc : c = lineFeed
    · subst hc
      by_cases ht : t = []
      · rw [ht]; exact linesOf_lineFeed b
      · rw [wholeLines_cons_of_ne_nil _ ht] at h
        rw [List.cons_append, linesOf_lineFeed, linesOf_lineFeed, ih h, List.cons_append]
    · have ht : t ≠ [] := by
        rintro rfl
        exact hc (by simpa [wholeLines] using h)
      rw [wholeLines_cons_of_ne_nil _ ht] at h
      obtain ⟨line, rest, hl⟩ := List.exists_cons_of_ne_nil (mt linesOf_eq_nil.mp ht)
      rw [List.cons_append, linesOf_cons _ hc, linesOf_cons _ hc, ih h, hl]
      rfl

/-! ## Runs over the lines of an input -/

/-- A run over all lines of the input: what holds where none is left, and is carried back over each answered
line, holds from the start of the run to its end. -/
theorem run_lines {R : State → State → Prop}
    (nil : ∀ s : State, s.pipe.phase = .lines → s.pipe.input = [] → R s s)
    (line : ∀ {s u t : State} {l rest : Text}, nextLine s.pipe.input = some (l, rest) →
      answer (splitLine l) (s.withInput rest) = .next u → Unchanged (s.withInput rest) u →
      R u.writeLine t → R s t)
    (s : State) (hp : s.pipe.phase = .lines) :
    ∃ t : State, Host.Core.run Sys2Proof.core (linesOf s.pipe.input).length s = .next t ∧ R s t := by
  generalize hlines : linesOf s.pipe.input = ls
  induction ls generalizing s with
  | nil => exact ⟨s, rfl, nil s hp (linesOf_eq_nil.mp hlines)⟩
  | cons l ls ih =>
    have hne : s.pipe.input ≠ [] := fun h => by rw [h] at hlines; cases hlines
    obtain ⟨⟨l', rest⟩, hn⟩ := Option.ne_none_iff_exists'.mp (mt (nextLine_eq_none _).mp hne)
    obtain ⟨rfl, hrest⟩ := List.cons.inj ((linesOf_next hn).symm.trans hlines)
    obtain ⟨u, hu, hun, hstep⟩ := step_line hp hn
    have ⟨_, _, hpipe⟩ := hun
    obtain ⟨t, ht, hR⟩ := ih u.writeLine (by simp [hpipe, hp]) (by simpa [hpipe] using hrest)
    exact ⟨t, (run_succ _ hstep).trans ht, line hn hu hun hR⟩

/-- The run from `s` to `t` has read the whole input and written one line for each of its lines. -/
def WroteOneLineEach (s t : State) : Prop :=
  wholeLines s.pipe.output = true → t.pipe.input = [] ∧ t.pipe.phase = .lines ∧
    wholeLines t.pipe.output = true ∧
    (linesOf t.pipe.output).length = (linesOf s.pipe.output).length + (linesOf s.pipe.input).length ∧
    s.pipe.output <+: t.pipe.output

theorem wroteOneLineEach_line {s u t : State} {l rest : Text} (hn : nextLine s.pipe.input = some (l, rest))
    (hu : answer (splitLine l) (s.withInput rest) = .next u) (hun : Unchanged (s.withInput rest) u)
    (h : WroteOneLineEach u.writeLine t) : WroteOneLineEach s t := by
  intro hs
  obtain ⟨-, -, hpipe⟩ := hun
  have hout : u.writeLine.pipe.output = s.pipe.output ++ (u.response.text ++ [lineFeed]) := by
    simp [hpipe]
  have hin : u.writeLine.pipe.input = rest := by simp [hpipe]
  obtain ⟨hinput, hphase, hwhole, hlength, hprefix⟩ := h (wholeLines_append_lineFeed _)
  refine ⟨hinput, hphase, hwhole, ?_, (hout ▸ List.prefix_append _ _).trans hprefix⟩
  rw [hlength, hout, hin, linesOf_append hs, linesOf_line (lineFeed_notMem_response hu), linesOf_next hn]
  simp only [List.length_append, List.length_cons, List.length_nil]
  omega

/-- Settles O48, by `run_lines`. -/
theorem runWritesOneLinePerInputLine : Obligations.RunWritesOneLinePerInputLine := by
  intro s hp hs
  obtain ⟨t, ht, h⟩ := run_lines (R := WroteOneLineEach)
    (fun s hp hi hs => ⟨hi, hp, hs, by rw [hi]; rfl, List.prefix_rfl⟩) wroteOneLineEach_line s hp
  exact ⟨t, ht, h hs⟩

/-! ## Determined output -/

theorem determinedResponse_of_instr {r : Request} {i : Instr} (h : decodeRequest r = .instr i)
    (hi : i ≠ .mfc0) : determinedResponse r = (encode i).map .word := by
  rw [determinedResponse, h]
  cases i with
  | mfc0 => exact absurd rfl hi
  | _ => rfl

theorem WordAnswer.response {r : Result} {s : State} {w : Word} (h : WordAnswer r s w) :
    ∃ u, r = .next u ∧ u.response = .word w := by
  obtain ⟨u, hu, hw, hd, -⟩ := h
  exact ⟨u, hu, by rw [State.response, hd, hw]; rfl⟩

/-- A determined response is the one that the ports give, with the ROMs built (R17). -/
theorem answer_determined {r : Request} {s : State} {resp : Response} (h : RomsBuilt Config.params s)
    (hr : determinedResponse r = some resp) : ∃ u, answer r s = .next u ∧ u.response = resp := by
  obtain ⟨m, t⟩ := r
  cases hm : lookupMnemonic m with
  | some k =>
    obtain rfl := lookupMnemonic_some hm
    have hd := decodeRequest_text k t
    rw [answer_of_instr hd]
    by_cases hi : k.instr t = .mfc0
    · rw [hi] at hd ⊢
      rw [determinedResponse, hd] at hr
      cases hr
      exact ⟨_, rfl, rfl⟩
    · rw [determinedResponse_of_instr hd hi] at hr
      obtain ⟨w, hw, rfl⟩ := Option.map_eq_some_iff.mp hr
      exact (execEmitsTheTableWord Config.openFuncts s _ w h hw).response
  | none =>
    have hu := lookupMnemonic_eq_none.mp hm
    have hd : decodeRequest { mnem := m, opnd := t } = .rejected .unknownMnemonic := by rw [decodeRequest, hm]
    rw [answer_unknown hu]
    rw [determinedResponse, hd] at hr
    obtain ⟨w, hw, rfl⟩ := Option.map_eq_some_iff.mp hr
    cases hparse : parseRThree t with
    | malformed => rw [hparse] at hw; cases hw
    | ok o =>
      rw [hparse] at hw
      cases hw
      exact (execUnknown_word h hu o).response

theorem determinedOutput_cons {l : Text} {resp : Response} (h : determinedResponse (splitLine l) = some resp)
    (ls : List Text) : determinedOutput (l :: ls) = resp.text ++ [lineFeed] ++ determinedOutput ls := by
  rw [determinedOutput, List.flatMap_cons, h]; rfl

/-- The run from `s` to `t` has read the whole input and written the lines that the encodings determine. -/
def WroteDetermined (s t : State) : Prop :=
  RomsBuilt Config.params s →
    (∀ l ∈ linesOf s.pipe.input, (determinedResponse (splitLine l)).isSome = true) →
    t.pipe.input = [] ∧ t.pipe.output = s.pipe.output ++ determinedOutput (linesOf s.pipe.input)

theorem wroteDetermined_line {s u t : State} {l rest : Text} (hn : nextLine s.pipe.input = some (l, rest))
    (hu : answer (splitLine l) (s.withInput rest) = .next u) (hun : Unchanged (s.withInput rest) u)
    (h : WroteDetermined u.writeLine t) : WroteDetermined s t := by
  intro hroms hdet
  obtain ⟨hopc, hfn, hpipe⟩ := hun
  rw [linesOf_next hn, List.forall_mem_cons] at hdet
  obtain ⟨hl, hrest⟩ := hdet
  obtain ⟨resp, hresp⟩ := Option.isSome_iff_exists.mp hl
  obtain ⟨u', hu', htext⟩ := answer_determined (s := s.withInput rest) hroms hresp
  cases hu.symm.trans hu'
  have hin : u.writeLine.pipe.input = rest := by simp [hpipe]
  have hout : u.writeLine.pipe.output = s.pipe.output ++ (resp.text ++ [lineFeed]) := by
    simp [hpipe, htext]
  obtain ⟨hinput, houtput⟩ := h ⟨hopc.trans hroms.1, hfn.trans hroms.2⟩ (hin ▸ hrest)
  refine ⟨hinput, ?_⟩
  rw [houtput, hin, hout, linesOf_next hn, determinedOutput_cons hresp, List.append_assoc]

/-- Settles O49, by `run_lines`. -/
theorem runOutputIsDeterminedByItsInput : Obligations.RunOutputIsDeterminedByItsInput := by
  intro s hroms hp hdet
  obtain ⟨t, ht, h⟩ := run_lines (R := WroteDetermined)
    (fun s hp hi _ _ => ⟨hi, by rw [hi]; exact (List.append_nil _).symm⟩) wroteDetermined_line s hp
  exact ⟨t, ht, h hroms hdet⟩

/-! ## A fetched word -/

section
variable (v : Int)

theorem lineFeed_notMem_intText : lineFeed ∉ intText v := by
  have hdigits : lineFeed ∉ decimalDigits Config.litBits v.natAbs := fun h =>
    absurd (allDigits_decimalDigits _ _ _ h) (by decide)
  have hminus : lineFeed ≠ byteOf '-' := by decide
  rw [intText]
  split_ifs
  · exact List.not_mem_cons_of_ne_of_not_mem hminus hdigits
  · exact hdigits

theorem lineFeed_notMem_regText : lineFeed ∉ regText v :=
  List.not_mem_cons_of_ne_of_not_mem (by decide) (lineFeed_notMem_intText v)

end

theorem lineFeed_notMem_commaText : lineFeed ∉ commaText := by decide

theorem lineFeed_notMem_parsedText {α : Type} {text : α → Text} (h : ∀ o, lineFeed ∉ text o) (ops : Parsed α) :
    lineFeed ∉ ops.text text := by
  cases ops with
  | ok o => exact h o
  | malformed => exact List.not_mem_nil

theorem lineFeed_notMem_operandText (i : Instr) : lineFeed ∉ i.operandText := by
  have hopen : lineFeed ∉ ascii ['('] := by decide
  have hclose : lineFeed ∉ ascii [')'] := by decide
  cases i with
  | mfc0 => exact List.not_mem_nil
  | j ops | jal ops => exact lineFeed_notMem_parsedText (fun o => lineFeed_notMem_intText _) ops
  | jr ops | mfhi ops | mflo ops => exact lineFeed_notMem_parsedText (fun o => lineFeed_notMem_regText _) ops
  | _ =>
    refine lineFeed_notMem_parsedText (fun o => ?_) _
    simp only [IArith.text, IMem.text, ILui.text, RRsRt.text, RShift.text, RThree.text, List.mem_append,
      lineFeed_notMem_intText, lineFeed_notMem_regText, lineFeed_notMem_commaText, hopen, hclose, or_self,
      not_false_eq_true]

theorem lineFeed_notMem_line (i : Instr) : lineFeed ∉ i.line := by
  have hmnemonic : ∀ m : Mnemonic, lineFeed ∉ m.text := fun m => by cases m <;> decide
  have hspace : lineFeed ≠ space := by decide
  simp [Instr.line, hmnemonic, hspace, lineFeed_notMem_operandText]

/-- Every field is a literal that `read_int` can give (R45). -/
theorem inLitRange_fieldOf (w : Word) (lo : Nat) {len : Nat} (h : len ≤ 31) :
    inLitRange (fieldOf w lo len) = true := by
  rw [fieldOf, inLitRange_natCast]
  exact (BitVec.isLt _).trans_le (Nat.pow_le_pow_right (by decide) h)

/-- Every literal of an instruction that a row builds is a field of the word. -/
theorem literalsInRange_build (f : OpenFuncts) (w : Word) : ∀ r ∈ rows f, (r.build w).literalsInRange = true := by
  rw [rows, rowsJI_eq, rowsR_eq, rowsOpen_eq]
  simp [rowOpcode, rowLui, rowThree, rowRsRt, rowRd, rowShift, rowRs, Instr.literalsInRange, Instr.literals,
    Parsed.literals, JTarget.literals, IArith.literals, IMem.literals, ILui.literals, RThree.literals,
    RRsRt.literals, RRd.literals, RShift.literals, RRs.literals, JTarget.ofWord, IArith.ofWord, IMem.ofWord,
    ILui.ofWord, RThree.ofWord, RRsRt.ofWord, RRd.ofWord, RShift.ofWord, RRs.ofWord, inLitRange_fieldOf]

/-- What the decoder gives has literals, so that its line names it. -/
theorem decodeLine_line_of_decodeWordWith {f : OpenFuncts} {w : Word} {i : Instr}
    (h : decodeWordWith f w = .instr i) : decodeLine i.line = .instr i := by
  obtain ⟨r, hr, -, rfl⟩ := row_of_decodeWordWith h
  exact lineNamesItsInstruction _ (literalsInRange_build f w r hr)

theorem decodeWord_of_decodeTableWord {n w : Nat} {i : Instr} (h : decodeTableWord n w = some i) :
    decodeWord (BitVec.ofNat 32 w) = .instr i := by
  rw [decodeTableWord] at h
  split_ifs at h
  cases hd : decodeWord (BitVec.ofNat 32 w) with
  | instr k => rw [hd] at h; cases h; rfl
  | rejected why => rw [hd] at h; cases h

theorem withFetchWord_of_some {n w : Nat} {i : Instr} (h : decodeTableWord n w = some i) (s : State) :
    s.withFetchWord n w = s.withText (i.line ++ [lineFeed]) := by
  rw [State.withFetchWord, h]

/-- Settles O11: the placed line is the next one, it names the word's instruction, and that instruction's
answer is the word. -/
theorem fetchedWordIsEmitted : Obligations.FetchedWordIsEmitted := by
  intro s w i h htable
  have hdecode := decodeWord_of_decodeTableWord htable
  have hencode := decodedWordEncodesBack _ _ _ hdecode
  rw [withFetchWord_of_some htable]
  have hnext : nextLine (s.withText (i.line ++ [lineFeed])).pipe.input = some (i.line, s.pipe.input) := by
    simpa using nextLine_append (lineFeed_notMem_line i) s.pipe.input
  obtain ⟨t, ht, hword, hdiag, hun⟩ := execEmitsTheTableWord Config.openFuncts
    ((s.withText (i.line ++ [lineFeed])).withInput s.pipe.input) i _ h hencode
  obtain ⟨-, -, hpipe⟩ := hun
  have hanswer := (answer_of_instr (decodeLine_line_of_decodeWordWith hdecode) _).trans ht
  refine ⟨t.writeLine, ?_, hword, hdiag, ?_, ?_⟩
  · rw [step_of_nextLine rfl hnext, presentLine, hanswer, writeAnswer]
  · simp [hpipe, response_text, hdiag, hword]
  · simp [hpipe]

end Sys2Proof.Machine
end
